-- ==== Sys2Proof/Word.lean ====
section
/-!
DEFINITION. The words of the frame codec: bytes, event words and the packed status word.
-/

namespace Sys2Proof

/-- A byte: 8 bits, unsigned, bit 7 the most significant (spec/00_scope.md R14). -/
abbrev Byte := BitVec 8

/-- An event word `EV`, 20 bits: `op[19:16] a[15:8] b[7:0]` (spec/30_encoding.md R64). -/
abbrev EventWord := BitVec 20

/-- The packed result of `STAT.RD`, 47 bits (spec/43_system_ops.md R124). -/
abbrev StatWord := BitVec 47

end Sys2Proof
end

