-- ==== Sys2Proof/Config.lean ====
section
/-!
DEFINITION. What an implementation fixes before the first event (spec/00_scope.md section 4): the header length of a response.
There is no free value: no rule of the spec lets an event complete with a value it does not give.
-/

namespace Sys2Proof

/-- `HDR_LEN`: the number of response bytes consumed in state `HEADER`; admitted values 3 (default) and 2
(spec/00_scope.md R9, spec/90_conflicts.md C1). -/
inductive HdrLen where
  | two
  | three
  deriving DecidableEq, Repr

/-- The header length as a number. -/
def HdrLen.toNat : HdrLen → Nat
  | .two => 2
  | .three => 3

/-- The parameters of the codec (spec/00_scope.md R9, spec/10_state.md R28): constant for the life of the block. -/
structure Config where
  hdrLen : HdrLen
  deriving DecidableEq, Repr

/-- The configuration with the spec's default header length, 3 (spec/00_scope.md R9). -/
def Config.default : Config := { hdrLen := .three }

end Sys2Proof
end

