-- ==== Sys2Proof/Syntax.lean ====
section
/-!
DEFINITION. The operations of the codec: one constructor for each row of spec/opcode_table.json.
-/

namespace Sys2Proof

/-- The rows of spec/opcode_table.json. The first eight are the events of spec/30_encoding.md R66. -/
inductive Instr where
  /-- `RST`, op 0x0 (spec/43_system_ops.md R120). -/
  | rst
  /-- `ENC.START c, l`, op 0x1: command byte, payload length (spec/41_encoder.md R91). -/
  | encStart (c l : Byte)
  /-- `ENC.DATA b`, op 0x2: the next payload byte (spec/41_encoder.md R92). -/
  | encData (b : Byte)
  /-- `DEC.ARM n`, op 0x3: the buffer length (spec/42_decoder.md R101, R102). -/
  | decArm (n : Byte)
  /-- `RX.BYTE b`, op 0x4: one received byte (spec/42_decoder.md R103 to R107). -/
  | rxByte (b : Byte)
  /-- `RX.TMO`, op 0x5: no byte within the timeout (spec/42_decoder.md R108 to R110). -/
  | rxTmo
  /-- `BUF.RD k`, op 0x6: read a byte of the response buffer (spec/43_system_ops.md R122). -/
  | bufRd (k : Byte)
  /-- `STAT.RD`, op 0x7: read all registers (spec/43_system_ops.md R124). -/
  | statRd
  /-- The reserved op codes 0x8 to 0xF, with the word's two operand bytes (spec/30_encoding.md R68). -/
  | reserved (op : BitVec 4) (a b : Byte)
  /-- Micro-operation `ACC.CLR`; no op code (spec/40_checksum_accumulator.md R81, spec/30_encoding.md R67). -/
  | accClr
  /-- Micro-operation `ACC.ADD b`; no op code (spec/40_checksum_accumulator.md R82). -/
  | accAdd (b : Byte)
  /-- Micro-operation `ACC.EQ b`; no op code (spec/40_checksum_accumulator.md R83). -/
  | accEq (b : Byte)
  /-- The wire format `REQ_FRAME`: command byte and payload; marker, length and checksum follow from them
  (spec/30_encoding.md R60). -/
  | reqFrame (c : Byte) (payload : List Byte)
  /-- The wire format `RSP_FRAME`: the header bytes before the length, the payload and the checksum byte the peer
  sent; the length byte is the payload's (spec/30_encoding.md R61). -/
  | rspFrame (header payload : List Byte) (checksum : Byte)
  /-- The wire format `CMD.SET_VOLUME v`: the request frame of command 0x13 with the payload `v`
  (spec/44_host_transaction.md R140). -/
  | cmdSetVolume (v : Byte)
  deriving DecidableEq, Repr

end Sys2Proof
end

