-- ==== Sys2Proof/WellFormed.lean ====
section
/-!
DEFINITION. Which terms of `Instr` stand for a row of spec/opcode_table.json: the operand ranges that the constructor's types
do not already impose.
-/

namespace Sys2Proof

/-- The length byte counts 0 to 255 payload bytes (`LEN_MAX`, spec/00_scope.md R10). -/
def payloadFits (payload : List Byte) : Bool := payload.length ≤ 255

/-- A response has `HDR_LEN - 1` header bytes before its length byte (spec/30_encoding.md R61). -/
def headerFits (h : HdrLen) (header : List Byte) : Bool := header.length + 1 == h.toNat

/-- Reserved op codes are 0x8 to 0xF (R68); a request carries at most 255 payload bytes (R60); a response too, behind a
header of one of the two admitted lengths (R61, R9). Every other term is well-formed. -/
def Instr.wf : Instr → Bool
  | .reserved op _ _ => 8 ≤ op.toNat
  | .reqFrame _ payload => payloadFits payload
  | .rspFrame header payload _ =>
    (headerFits .two header || headerFits .three header) && payloadFits payload
  | .rst | .encStart _ _ | .encData _ | .decArm _ | .rxByte _ | .rxTmo | .bufRd _ | .statRd => true
  | .accClr | .accAdd _ | .accEq _ | .cmdSetVolume _ => true

/-- Whether a term is an instruction of a block with header length `h`: only a response's header depends on it. -/
def Instr.fits (h : HdrLen) : Instr → Bool
  | .rspFrame header _ _ => headerFits h header
  | .reqFrame _ _ | .cmdSetVolume _ | .reserved _ _ _ => true
  | .rst | .encStart _ _ | .encData _ | .decArm _ | .rxByte _ | .rxTmo | .bufRd _ | .statRd => true
  | .accClr | .accAdd _ | .accEq _ => true

end Sys2Proof
end

