-- ==== Sys2Proof/Decode.lean ====
section
/-!
DEFINITION. Decoding and encoding: the 20-bit event word (spec/30_encoding.md R64 to R68) and the two wire frames
(R60, R61), each total and rejecting by name; the checksum function (spec/40_checksum_accumulator.md R84) that a frame ends in.
-/

namespace Sys2Proof

/-- `MARKER`, the first byte of a request frame (spec/00_scope.md R8). -/
def startMarker : Byte := 0xAA

/-- The command byte of `setVolume` (spec/30_encoding.md R71, spec/44_host_transaction.md R140). -/
def setVolumeCommand : Byte := 0x13

/-- `Sum8`: the sum of all bytes modulo 256, 0 for no byte (spec/40_checksum_accumulator.md R84). -/
def sum8 : List Byte → Byte
  | [] => 0
  | b :: bs => b + sum8 bs

/-- The length byte of a payload (spec/30_encoding.md R60). -/
def lengthByte (payload : List Byte) : Byte := BitVec.ofNat 8 payload.length

/-! ## Event words -/

/-- Field `op`, bits 19:16 (R64). -/
def opField (w : EventWord) : BitVec 4 := w.extractLsb' 16 4

/-- Field `a`, bits 15:8 (R64). -/
def aField (w : EventWord) : Byte := w.extractLsb' 8 8

/-- Field `b`, bits 7:0 (R64). -/
def bField (w : EventWord) : Byte := w.extractLsb' 0 8

/-- `op << 16 | a << 8 | b` (R64, R72). -/
def eventWord (op : BitVec 4) (a b : Byte) : EventWord := (op ++ a ++ b : BitVec 20)

/-- The operation an event word selects (R66); unused operand fields are ignored (R64); op codes 0x8 to 0xF are the
reserved row (R68). Total: every 20-bit word has one reading. -/
def decodeEvent (w : EventWord) : Instr :=
  match (opField w).toNat with
  | 0 => .rst
  | 1 => .encStart (aField w) (bField w)
  | 2 => .encData (aField w)
  | 3 => .decArm (aField w)
  | 4 => .rxByte (aField w)
  | 5 => .rxTmo
  | 6 => .bufRd (aField w)
  | 7 => .statRd
  | _ => .reserved (opField w) (aField w) (bField w)

/-! ## Wire frames -/

/-- What a request frame's checksum covers: marker, command, length, payload (R60). -/
def requestBody (c : Byte) (payload : List Byte) : List Byte :=
  startMarker :: c :: lengthByte payload :: payload

/-- `Encode(c, P)`, the bytes of a request frame in wire order (spec/41_encoder.md R93). -/
def requestBytes (c : Byte) (payload : List Byte) : List Byte :=
  requestBody c payload ++ [sum8 (requestBody c payload)]

/-- What a response frame's checksum covers: the header bytes, the length byte, the payload (R61). -/
def responseBody (header payload : List Byte) : List Byte :=
  header ++ lengthByte payload :: payload

/-- The bytes of a response frame in wire order (R61). -/
def responseBytes (header payload : List Byte) (checksum : Byte) : List Byte :=
  responseBody header payload ++ [checksum]

/-- Why bits are no instruction. -/
inductive DecodeError where
  /-- A number that is no 20-bit event word. -/
  | notAnEventWord
  /-- Fewer bytes than a frame's fixed part. -/
  | shortFrame
  /-- A request frame that does not begin with 0xAA. -/
  | badMarker
  /-- The length byte does not count the payload bytes that follow. -/
  | badLength
  /-- A request frame whose last byte is not the sum of the others. -/
  | badChecksum
  deriving DecidableEq, Repr

/-- The table's name for a request frame: the row `CMD.SET_VOLUME` where it applies, else the row `REQ_FRAME`. -/
def requestInstr (c : Byte) (payload : List Byte) : Instr :=
  match payload with
  | [v] => if c = setVolumeCommand then .cmdSetVolume v else .reqFrame c [v]
  | _ => .reqFrame c payload

/-- Reads one whole request frame (R60). -/
def decodeRequest : List Byte → Except DecodeError Instr
  | marker :: c :: l :: rest =>
    if marker ≠ startMarker then .error .badMarker
    else if rest.length ≠ l.toNat + 1 then .error .badLength
    else if rest.drop l.toNat ≠ [sum8 (marker :: c :: l :: rest.take l.toNat)] then .error .badChecksum
    else .ok (requestInstr c (rest.take l.toNat))
  | _ => .error .shortFrame

/-- Reads one whole response frame (R61). No header byte is checked, and the checksum byte is an operand: the decoder
compares it, the frame format does not (spec/30_encoding.md R69). -/
def decodeResponse (h : HdrLen) (bytes : List Byte) : Except DecodeError Instr :=
  match bytes.drop (h.toNat - 1) with
  | l :: rest =>
    match rest.drop l.toNat with
    | [s] => .ok (.rspFrame (bytes.take (h.toNat - 1)) (rest.take l.toNat) s)
    | _ => .error .badLength
  | [] => .error .shortFrame

/-! ## All of the table -/

/-- The bits of an instruction: an event word, a frame the block sends, or a frame the block receives. -/
inductive Code where
  | event (w : EventWord)
  | request (bytes : List Byte)
  | response (bytes : List Byte)
  deriving DecidableEq, Repr

/-- The encoding of an instruction, unused operand fields zero (R64); the micro-operations have none (R67). -/
def encode : Instr → Option Code
  | .rst => some (.event (eventWord 0 0 0))
  | .encStart c l => some (.event (eventWord 1 c l))
  | .encData b => some (.event (eventWord 2 b 0))
  | .decArm n => some (.event (eventWord 3 n 0))
  | .rxByte b => some (.event (eventWord 4 b 0))
  | .rxTmo => some (.event (eventWord 5 0 0))
  | .bufRd k => some (.event (eventWord 6 k 0))
  | .statRd => some (.event (eventWord 7 0 0))
  | .reserved op a b => some (.event (eventWord op a b))
  | .accClr => none
  | .accAdd _ => none
  | .accEq _ => none
  | .reqFrame c payload => some (.request (requestBytes c payload))
  | .rspFrame header payload checksum => some (.response (responseBytes header payload checksum))
  | .cmdSetVolume v => some (.request (requestBytes setVolumeCommand [v]))

/-- The instruction that some bits stand for, or why there is none. -/
def decode (h : HdrLen) : Code → Except DecodeError Instr
  | .event w => .ok (decodeEvent w)
  | .request bytes => decodeRequest bytes
  | .response bytes => decodeResponse h bytes

/-- The one spelling that decoding answers: a request frame of command 0x13 with one payload byte is `CMD.SET_VOLUME`;
every other instruction is its own. -/
def Instr.canonical : Instr → Instr
  | .reqFrame c payload => requestInstr c payload
  | .rst => .rst
  | .encStart c l => .encStart c l
  | .encData b => .encData b
  | .decArm n => .decArm n
  | .rxByte b => .rxByte b
  | .rxTmo => .rxTmo
  | .bufRd k => .bufRd k
  | .statRd => .statRd
  | .reserved op a b => .reserved op a b
  | .accClr => .accClr
  | .accAdd b => .accAdd b
  | .accEq b => .accEq b
  | .rspFrame header payload checksum => .rspFrame header payload checksum
  | .cmdSetVolume v => .cmdSetVolume v

/-- The event word whose bits are `w`, if `w` is one: 20 bits, in at most three bytes. -/
def eventOfBits (nbits w : Nat) : Except DecodeError EventWord :=
  if nbits ≤ 24 ∧ w < 2 ^ 20 then .ok (BitVec.ofNat 20 w) else .error .notAnEventWord

/-- The instruction read from the bits `w` of a table row, `none` where the decoder refuses them. -/
def decodeTableWord (nbits w : Nat) : Option Instr :=
  match eventOfBits nbits w with
  | .ok ev => some (decodeEvent ev)
  | .error _ => none

end Sys2Proof
end

