-- ==== Sys2Proof/Machine/State.lean ====
section
/-!
DEFINITION. The state of the codec as plain data (spec/10_state.md), the state after reset (R34), and the reasons a step can
stop.
-/

namespace Sys2Proof.Machine

/-- The values of `st` (spec/10_state.md R24): the phase of the frame in progress. -/
inductive Phase where
  /-- No frame in progress. -/
  | idle
  /-- A request header has been emitted, payload bytes are owed. -/
  | enc
  /-- Armed; the response header is not complete. -/
  | header
  /-- Payload bytes are owed by the peer. -/
  | payload
  /-- The next byte is the checksum byte. -/
  | checksum
  /-- The verdict is final; later bytes are dropped. -/
  | done
  deriving DecidableEq, Repr

/-- The values of `vd` (spec/10_state.md R26): the outcome of the last decode. -/
inductive Verdict where
  | none
  | ok
  | sumErr
  | tmo
  deriving DecidableEq, Repr

/-- A value handed back to whoever issued the operation (spec/43_system_ops.md R122, R124; spec/40_checksum_accumulator.md
R83). -/
inductive Answer where
  /-- The byte that `BUF.RD` read. -/
  | byte (b : Byte)
  /-- The registers that `STAT.RD` read, packed. -/
  | status (w : StatWord)
  /-- The comparison of `ACC.EQ`. -/
  | equal (e : Bool)
  deriving DecidableEq, Repr

/-- The response buffer: the written offsets with their bytes, offsets strictly rising. An offset that is not listed holds
no value (spec/10_state.md R34: "holds no value"; notes/assumptions/3.md). -/
abbrev Memory := List Host.Cell

/-- Reasons a step stops with a fault. -/
inductive Fault where
  /-- Raised by `BUF.RD` of an active offset that nothing has written. Safe: the spec says no read returns an unwritten
  value (spec/43_system_ops.md R122), and no run reaches it, since `DEC.ARM` fills what it makes active. -/
  | unwrittenByte (k : Nat)
  deriving DecidableEq, Repr

/-- Reasons a step is refused (spec/30_encoding.md R70): the spec gives the event no successor state. -/
inductive Refusal where
  /-- Raised by an arm of `exec` whose instruction has no meaning yet; none is left. Safe. -/
  | notModelled (mnemonic : String)
  /-- Raised by `ENC.START`, `ENC.DATA`, `DEC.ARM`, `RX.BYTE`, `RX.TMO`, `BUF.RD` and the frames built of them in a phase that
  does not admit them (R70, spec/10_state.md R25). Safe: the spec calls it undefined and forbids picking a behaviour. -/
  | notAdmitted (phase : Phase)
  /-- Raised by `BUF.RD k` in `IDLE` with `k >= blen` (R70, spec/43_system_ops.md R122). Safe, for the same reason. -/
  | inactiveOffset (k : Byte)
  /-- Raised by the reserved op codes, in every state (spec/30_encoding.md R68). Safe, for the same reason. -/
  | reservedOp (op : BitVec 4)
  deriving DecidableEq, Repr

/-- The state of the codec: the eight registers (spec/10_state.md R20), the response buffer (R29), the configuration (R28),
the output history (R31), and the model's own two lists: events delivered and not yet consumed, and answers given. -/
structure State where
  /-- `x[0]`, the running additive checksum. -/
  sum : Byte
  /-- `x[1]`, response payload bytes still to come. -/
  cnt : Byte
  /-- `x[2]`, request payload bytes still to be supplied. -/
  rem : Byte
  /-- `x[3]`, the offset of the next response payload byte. -/
  off : Byte
  /-- `x[4]`, the position of the next header byte. -/
  hpos : BitVec 2
  /-- `x[5]`, the active capacity of the response buffer. -/
  blen : Byte
  /-- `x[6]`, the phase. -/
  st : Phase
  /-- `x[7]`, the verdict. -/
  vd : Verdict
  /-- The response buffer. -/
  buf : Memory
  /-- Every byte emitted by `Tx`, oldest first; no rule reads it back. -/
  tx : List Byte
  /-- Every value handed back, oldest first; no rule reads it back. -/
  answers : List Answer
  /-- The event words delivered and not yet consumed, oldest first. -/
  pending : List EventWord
  /-- The parameters; no operation changes them. -/
  cfg : Config
  deriving DecidableEq, Repr

/-- The state at power-on (spec/10_state.md R34, spec/70_reset_and_hazards.md R180): every register zero, `IDLE`, `NONE`,
no buffer byte written, nothing emitted, nothing delivered; `HDR_LEN` at its default (spec/00_scope.md R9). -/
def State.reset : State where
  sum := 0
  cnt := 0
  rem := 0
  off := 0
  hpos := 0
  blen := 0
  st := .idle
  vd := .none
  buf := []
  tx := []
  answers := []
  pending := []
  cfg := Config.default

/-- The three outcomes of one operation. -/
abbrev Outcome := Host.Outcome State Fault Refusal

end Sys2Proof.Machine
end

