-- ==== Sys2Proof/Machine/Operands.lean ====
section
/-!
DEFINITION. Operand forms and field codes: an operand byte as a count or an offset, the numeric codes of `st` and `vd`, the
registers by number, and the order of a 16-bit value's bytes.
-/

namespace Sys2Proof.Machine

/-- A byte used as a count or an offset: zero-extended, 0 to 255 (spec/30_encoding.md R65). -/
def countOf (b : Byte) : Nat := b.toNat

/-- The code of a phase (spec/10_state.md R24). -/
def phaseCode : Phase → BitVec 3
  | .idle => 0
  | .enc => 1
  | .header => 2
  | .payload => 3
  | .checksum => 4
  | .done => 5

/-- The code of a verdict (spec/10_state.md R26). -/
def verdictCode : Verdict → BitVec 2
  | .none => 0
  | .ok => 1
  | .sumErr => 2
  | .tmo => 3

/-- The last header position, `HDR_LEN - 1`: the position of the length byte (spec/42_decoder.md R103). -/
def lastHeaderPos (s : State) : BitVec 2 :=
  match s.cfg.hdrLen with
  | .two => 1
  | .three => 2

/-- The registers by number, `x[i]` (spec/10_state.md R20), each as an unsigned number. -/
def register (s : State) : Fin 8 → Nat
  | 0 => s.sum.toNat
  | 1 => s.cnt.toNat
  | 2 => s.rem.toNat
  | 3 => s.off.toNat
  | 4 => s.hpos.toNat
  | 5 => s.blen.toNat
  | 6 => (phaseCode s.st).toNat
  | 7 => (verdictCode s.vd).toNat

/-- The 47-bit status word: `sum[46:39] cnt[38:31] rem[30:23] off[22:15] blen[14:7] hpos[6:5] st[4:2] vd[1:0]`
(spec/43_system_ops.md R124). -/
def statusWord (s : State) : StatWord :=
  (s.sum ++ s.cnt ++ s.rem ++ s.off ++ s.blen ++ s.hpos ++ phaseCode s.st ++ verdictCode s.vd : BitVec 47)

/-- A 16-bit value as its two payload bytes, high byte first (spec/20_memory.md R48). -/
def splitWord (v : BitVec 16) : List Byte := [v.extractLsb' 8 8, v.extractLsb' 0 8]

/-- The 16-bit reading of two payload bytes, high byte first (spec/20_memory.md R48). -/
def joinWord (hi lo : Byte) : BitVec 16 := hi ++ lo

end Sys2Proof.Machine
end

