-- ==== Sys2Proof/Machine/Flags.lean ====
section
/-!
DEFINITION. The verdict field and the outputs derived from the registers (spec/10_state.md R26, R27).
-/

namespace Sys2Proof.Machine

/-- The two failures of the decoder (spec/60_exceptions.md R160). -/
inductive Failure where
  | checksumMismatch
  | timeout
  deriving DecidableEq, Repr

/-- The verdict a failure records (spec/60_exceptions.md R160, R165). -/
def failureVerdict : Failure → Verdict
  | .checksumMismatch => .sumErr
  | .timeout => .tmo

/-- The phase that the raising rule enters after a failure (spec/60_exceptions.md R165). -/
def failurePhase : Failure → Phase
  | .checksumMismatch => .done
  | .timeout => .idle

/-- Output `busy` (spec/10_state.md R27). -/
def busy (s : State) : Bool := s.st != .idle

/-- Output `ok` (spec/10_state.md R27). -/
def succeeded (s : State) : Bool := s.vd == .ok

/-- Output `fail` (spec/10_state.md R27). -/
def failed (s : State) : Bool := s.vd == .sumErr || s.vd == .tmo

end Sys2Proof.Machine
end

