-- ==== Sys2Proof/Machine/Ops.lean ====
section
/-!
DEFINITION. The shared operations the meanings are made of: the response buffer, the accumulator's micro-operations, `Tx`,
admission, the failure entry, and the event stream (the primitives of spec/00_scope.md R15).
-/

namespace Sys2Proof.Machine

/-! ## The response buffer (spec/20_memory.md) -/

/-- `BUF_MAX`: the buffer has the offsets 0 to 254 (R40, spec/00_scope.md R11). -/
def bufMax : Nat := 255

/-- The byte at an offset, if one was written. -/
def Memory.read : Memory → Nat → Option Byte
  | [], _ => none
  | (a, x) :: m, k => if a = k then some x else Memory.read m k

/-- Writes one byte, keeping the offsets strictly rising. -/
def Memory.write (k : Nat) (v : Byte) : Memory → Memory
  | [] => [(k, v)]
  | (a, x) :: m =>
    if k < a then (k, v) :: (a, x) :: m
    else if k = a then (k, v) :: m
    else (a, x) :: Memory.write k v m

/-- Writes zero to the offsets 0 to `n - 1`, in rising order (R41 (a), (c)). -/
def Memory.zero : Nat → Memory → Memory
  | 0, m => m
  | n + 1, m => Memory.write n 0 (Memory.zero n m)

/-- Offsets strictly rising from `lo` on, all inside the buffer. -/
def Memory.sortedFrom : Nat → Memory → Bool
  | _, [] => true
  | lo, (a, _) :: m => decide (lo ≤ a) && decide (a < bufMax) && Memory.sortedFrom (a + 1) m

/-- The canonical form: offsets strictly rising, all inside the buffer. No cell equals what an unlisted offset holds, since
that is no value. -/
def Memory.wf (m : Memory) : Bool := Memory.sortedFrom 0 m

/-- `MemRead(k, 1)` of the response buffer. -/
def readBuf (s : State) (k : Nat) : Option Byte := s.buf.read k

/-- `MemWrite(k, 1, v)` to the response buffer. -/
def writeBuf (k : Nat) (v : Byte) (s : State) : State := { s with buf := s.buf.write k v }

/-- Zeroes the offsets 0 to `n - 1`, atomically within the event (R44). -/
def zeroBuf (n : Nat) (s : State) : State := { s with buf := s.buf.zero n }

/-- `ZeroFill()`: zeroes the active offsets 0 to `blen - 1` (spec/00_scope.md R15). -/
def zeroFill (s : State) : State := zeroBuf (countOf s.blen) s

/-- The offset at which the next payload byte is stored; none where it is only consumed. The check is `off < blen`
(R42, spec/90_conflicts.md C4). -/
def payloadSlot (s : State) : Option Nat :=
  if countOf s.off < countOf s.blen then some (countOf s.off) else none

/-- Stores a payload byte at its offset, if there is room (R41 (b), R42). -/
def storePayload (b : Byte) (s : State) : State :=
  match payloadSlot s with
  | some k => writeBuf k b s
  | none => s

/-! ## The checksum accumulator (spec/40_checksum_accumulator.md) -/

/-- `ACC.CLR` (R81). -/
def accClr (s : State) : State := { s with sum := 0 }

/-- `ACC.ADD b`: addition modulo 256, the carry lost (R82). -/
def accAdd (b : Byte) (s : State) : State := { s with sum := s.sum + b }

/-- `ACC.EQ b` (R83). -/
def accEq (b : Byte) (s : State) : Bool := b == s.sum

/-! ## Output -/

/-- `Tx(b)`: the byte goes to the transport; it always succeeds (spec/41_encoder.md R96). -/
def emit (b : Byte) (s : State) : State := { s with tx := s.tx ++ [b] }

/-- `Tx(b); ACC.ADD b`. -/
def emitSummed (b : Byte) (s : State) : State := accAdd b (emit b s)

/-- `Tx(sum)`: the checksum byte. -/
def emitSum (s : State) : State := emit s.sum s

/-- Hands a value back. -/
def answer (a : Answer) (s : State) : State := { s with answers := s.answers ++ [a] }

/-! ## Phase and verdict -/

/-- `st <- p`. -/
def goto (p : Phase) (s : State) : State := { s with st := p }

/-- `vd <- v`. -/
def setVerdict (v : Verdict) (s : State) : State := { s with vd := v }

/-- The failure entry `raise` and the phase its rule then enters (spec/60_exceptions.md R165). -/
def raise (f : Failure) (s : State) : State :=
  goto (failurePhase f) (setVerdict (failureVerdict f) (zeroFill s))

/-- Every register to its reset value; buffer, output, event stream and parameters as they were
(spec/43_system_ops.md R120). -/
def resetRegisters (s : State) : State :=
  { s with sum := 0, cnt := 0, rem := 0, off := 0, hpos := 0, blen := 0, vd := .none, st := .idle }

/-! ## Outcomes -/

/-- Admission by phase: outside the phases named, the event is refused (spec/30_encoding.md R70). -/
def admitIn (phases : List Phase) (s : State) (effect : Outcome) : Outcome :=
  if s.st ∈ phases then effect else .refused (.notAdmitted s.st)

/-- One operation, then another from the state it leaves; a fault or a refusal ends it. -/
def andThen (o : Outcome) (f : State → Outcome) : Outcome :=
  match o with
  | .next s => f s
  | .fault r => .fault r
  | .refused r => .refused r

/-- An operation for each byte of a list, in order. -/
def forBytes (f : Byte → State → Outcome) : List Byte → State → Outcome
  | [], s => .next s
  | b :: bs, s => andThen (f b s) (forBytes f bs)

/-- The next state of an outcome, if it has one. -/
def nextState : Outcome → Option State
  | .next s => some s
  | .fault _ => none
  | .refused _ => none

/-! ## The event stream (spec/30_encoding.md R63) -/

/-- The oldest event delivered, and the state without it. -/
def takeEvent (s : State) : Option (EventWord × State) :=
  match s.pending with
  | [] => none
  | w :: rest => some (w, { s with pending := rest })

/-- No event has been delivered: the block waits as it is (spec/70_reset_and_hazards.md R197). -/
def waitForEvent (s : State) : Outcome := .next s

/-- The host delivers an event that is to be consumed next. -/
def deliverNext (w : EventWord) (s : State) : State := { s with pending := w :: s.pending }

/-- Delivers the event word that the bits `w` of a table row are; bits that are no event word deliver nothing. -/
def deliverBits (nbits w : Nat) (s : State) : State :=
  match eventOfBits nbits w with
  | .ok ev => deliverNext ev s
  | .error _ => s

end Sys2Proof.Machine
end

