-- ==== Sys2Proof/Machine/Accumulator.lean ====
section
/-!
DEFINITION. The micro-operations of the accumulator, each run by itself (spec/40_checksum_accumulator.md). No event word selects
one (spec/30_encoding.md R67); the events use the same shared operations.
-/

namespace Sys2Proof.Machine

/-- `ACC.CLR` (R81). -/
def execAccClr (s : State) : Outcome := .next (accClr s)

/-- `ACC.ADD b` (R82). -/
def execAccAdd (b : Byte) (s : State) : Outcome := .next (accAdd b s)

/-- `ACC.EQ b`: the result is handed back, `sum` is not changed (R83). -/
def execAccEq (b : Byte) (s : State) : Outcome := .next (answer (.equal (accEq b s)) s)

end Sys2Proof.Machine
end

