-- ==== Sys2Proof/Machine/Decoder.lean ====
section
/-!
DEFINITION. The decoder: `DEC.ARM`, `RX.BYTE`, `RX.TMO` (spec/42_decoder.md).
-/

namespace Sys2Proof.Machine

/-- Arms the decoder with a buffer of `n` bytes, `n >= 1` (R101). -/
def arm (n : Byte) (s : State) : State :=
  { accClr (zeroBuf (countOf n) s) with
    blen := n, cnt := 0, off := 0, hpos := 0, vd := .none, st := .header }

/-- `DEC.ARM n`: nothing changes for `n = 0` (R101, R102). -/
def execDecArm (n : Byte) (s : State) : Outcome :=
  admitIn [.idle] s (.next (if n = 0 then s else arm n s))

/-- The length byte ends the header; a length of 0 leads straight to the checksum (R103). -/
def captureLength (b : Byte) (s : State) : State :=
  goto (if b = 0 then .checksum else .payload) { s with cnt := b }

/-- `RX.BYTE b` in `HEADER` (R103). -/
def receiveHeader (b : Byte) (s : State) : State :=
  if s.hpos = lastHeaderPos s then captureLength b (accAdd b s)
  else { accAdd b s with hpos := s.hpos + 1 }

/-- The counters of a payload byte, the count tested after its decrement (R104). -/
def countPayload (s : State) : State :=
  if s.cnt - 1 = 0 then goto .checksum { s with off := s.off + 1, cnt := s.cnt - 1 }
  else { s with off := s.off + 1, cnt := s.cnt - 1 }

/-- `RX.BYTE b` in `PAYLOAD` (R104). -/
def receivePayload (b : Byte) (s : State) : State :=
  countPayload (storePayload b (accAdd b s))

/-- `RX.BYTE b` in `CHECKSUM` (R105, R106). -/
def receiveChecksum (b : Byte) (s : State) : State :=
  if accEq b s then goto .done (setVerdict .ok s) else raise .checksumMismatch s

/-- `RX.BYTE b`: by phase; dropped in `DONE` and `IDLE` (R107), refused in `ENC` (R111). -/
def execRxByte (b : Byte) (s : State) : Outcome :=
  match s.st with
  | .enc => .refused (.notAdmitted .enc)
  | .header => .next (receiveHeader b s)
  | .payload => .next (receivePayload b s)
  | .checksum => .next (receiveChecksum b s)
  | .done => .next s
  | .idle => .next s

/-- `RX.TMO`: a failure before the verdict (R108), the end of the transaction after it (R109), nothing in `IDLE` (R110),
refused in `ENC` (R111). -/
def execRxTmo (s : State) : Outcome :=
  match s.st with
  | .enc => .refused (.notAdmitted .enc)
  | .header => .next (raise .timeout s)
  | .payload => .next (raise .timeout s)
  | .checksum => .next (raise .timeout s)
  | .done => .next (goto .idle s)
  | .idle => .next s

end Sys2Proof.Machine
end

