-- ==== Sys2Proof/Machine/Encoder.lean ====
section
/-!
DEFINITION. The encoder: `ENC.START` and `ENC.DATA` (spec/41_encoder.md).
-/

namespace Sys2Proof.Machine

/-- Marker, command and length are emitted and summed, after clearing the sum (R91). -/
def emitHeader (c l : Byte) (s : State) : State :=
  emitSummed l (emitSummed c (emitSummed startMarker (accClr s)))

/-- The frame is complete when no byte is owed: the checksum byte goes out and the block is idle; otherwise it waits in `ENC`
(R91, R92). -/
def closeFrameIfComplete (s : State) : State :=
  if s.rem = 0 then goto .idle (emitSum s) else goto .enc s

/-- `ENC.START c, l` (R91). -/
def execEncStart (c l : Byte) (s : State) : Outcome :=
  admitIn [.idle] s (.next (closeFrameIfComplete { emitHeader c l s with rem := l }))

/-- `ENC.DATA b` (R92). -/
def execEncData (b : Byte) (s : State) : Outcome :=
  admitIn [.enc] s (.next (closeFrameIfComplete { emitSummed b s with rem := s.rem - 1 }))

end Sys2Proof.Machine
end

