-- ==== Sys2Proof/Machine/Frames.lean ====
section
/-!
DEFINITION. The wire-format rows of spec/opcode_table.json as operations: a request frame is what the events of `SEND` emit
(spec/44_host_transaction.md R136), a response frame is what `RX.BYTE` receives byte by byte. No event word selects one.
-/

namespace Sys2Proof.Machine

/-- `SEND c, P`: `ENC.START c, |P|`, then `ENC.DATA` for each payload byte (spec/41_encoder.md R93). -/
def sendFrame (c : Byte) (payload : List Byte) (s : State) : Outcome :=
  andThen (execEncStart c (lengthByte payload) s) (forBytes execEncData payload)

/-- `REQ_FRAME`: the frame is emitted from `IDLE` (spec/30_encoding.md R60, spec/41_encoder.md R93). -/
def execReqFrame (c : Byte) (payload : List Byte) (s : State) : Outcome :=
  sendFrame c payload s

/-- `RSP_FRAME`: the frame's bytes are received in wire order (spec/30_encoding.md R61). -/
def execRspFrame (header payload : List Byte) (checksum : Byte) (s : State) : Outcome :=
  forBytes execRxByte (responseBytes header payload checksum) s

/-- `CMD.SET_VOLUME v`: the request frame of command 0x13 with the one payload byte `v`
(spec/44_host_transaction.md R140). -/
def execCmdSetVolume (v : Byte) (s : State) : Outcome :=
  sendFrame setVolumeCommand [v] s

end Sys2Proof.Machine
end

