-- ==== Sys2Proof/Machine/System.lean ====
section
/-!
DEFINITION. The system operations `RST`, `BUF.RD`, `STAT.RD` (spec/43_system_ops.md) and the reserved op codes
(spec/30_encoding.md R68).
-/

namespace Sys2Proof.Machine

/-- `RST`, admitted in every state (R120). -/
def execRst (s : State) : Outcome := .next (resetRegisters s)

/-- The byte at an active offset is handed back; no byte is written before it is active, so the fault is not reached by a run
(R122). -/
def readActive (k : Byte) (s : State) : Outcome :=
  match readBuf s (countOf k) with
  | some b => .next (answer (.byte b) s)
  | none => .fault (.unwrittenByte (countOf k))

/-- `BUF.RD k`, admitted in `IDLE` for an active offset (R122). -/
def execBufRd (k : Byte) (s : State) : Outcome :=
  admitIn [.idle] s
    (if countOf k < countOf s.blen then readActive k s else .refused (.inactiveOffset k))

/-- `STAT.RD`, admitted in every state (R124). -/
def execStatRd (s : State) : Outcome := .next (answer (.status (statusWord s)) s)

/-- A reserved op code is refused in every state, whatever its operand fields hold (spec/30_encoding.md R68). -/
def execReserved (op : BitVec 4) (_a _b : Byte) (_s : State) : Outcome := .refused (.reservedOp op)

end Sys2Proof.Machine
end

