-- ==== Sys2Proof/Machine/Dispatch.lean ====
section
/-!
DEFINITION. The meaning of every instruction: one arm for each row of spec/opcode_table.json.
-/

namespace Sys2Proof.Machine

def exec (i : Instr) (s : State) : Host.Outcome State Fault Refusal :=
  match i with
  | .rst => Sys2Proof.Machine.execRst s
  | .encStart c l => Sys2Proof.Machine.execEncStart c l s
  | .encData b => Sys2Proof.Machine.execEncData b s
  | .decArm n => Sys2Proof.Machine.execDecArm n s
  | .rxByte b => Sys2Proof.Machine.execRxByte b s
  | .rxTmo => Sys2Proof.Machine.execRxTmo s
  | .bufRd k => Sys2Proof.Machine.execBufRd k s
  | .statRd => Sys2Proof.Machine.execStatRd s
  | .reserved op a b => Sys2Proof.Machine.execReserved op a b s
  | .accClr => Sys2Proof.Machine.execAccClr s
  | .accAdd b => Sys2Proof.Machine.execAccAdd b s
  | .accEq b => Sys2Proof.Machine.execAccEq b s
  | .reqFrame c payload => Sys2Proof.Machine.execReqFrame c payload s
  | .rspFrame header payload checksum => Sys2Proof.Machine.execRspFrame header payload checksum s
  | .cmdSetVolume v => Sys2Proof.Machine.execCmdSetVolume v s

end Sys2Proof.Machine
end

