-- ==== Sys2Proof/Machine/Step.lean ====
section
/-!
DEFINITION. One step: the oldest event delivered is consumed and performed (spec/00_scope.md R15, spec/30_encoding.md R63).
-/

namespace Sys2Proof.Machine

/-- Consumes one event and performs it; where none has been delivered the block waits. -/
def step (s : State) : Host.Outcome State Fault Refusal :=
  match takeEvent s with
  | none => waitForEvent s
  | some (w, s') => exec (decodeEvent w) s'

/-- The state in which the event word of a table row is the next event (notes/assumptions/1.md, notes/assumptions/8.md). -/
def State.withFetchWord (s : State) (nbits w : Nat) : State := deliverBits nbits w s

end Sys2Proof.Machine
end

