-- ==== Sys2Proof/Machine/HostContext.lean ====
section
/-!
DEFINITION. How a host drives the codec (spec/44_host_transaction.md). None of it is hardware (spec/00_scope.md R6): pure
functions beside the machine, no part of State, and no rule of the codec uses them.
-/

namespace Sys2Proof.Machine

/-! ## Event sequences (spec/30_encoding.md R73) -/

/-- The events in order, each performed on the state the one before leaves; the first refusal or fault ends it. -/
def runScript : List Instr → State → Outcome
  | [], s => .next s
  | i :: is, s => andThen (exec i s) (runScript is)

/-- `FLUSH` of the stale bytes the transport holds: each read and dropped, then the waiter's report
(spec/44_host_transaction.md R135). -/
def flushScript (stale : List Byte) : List Instr := stale.map .rxByte ++ [.rxTmo]

/-- `SEND c, P` (R136). -/
def sendScript (c : Byte) (payload : List Byte) : List Instr :=
  .encStart c (lengthByte payload) :: payload.map .encData

/-- `RECV n` when the transport delivers `bytes` and then nothing in time (R137). This is also the event sequence of
`Decode(H, n, B)` (spec/42_decoder.md R112). -/
def recvScript (n : Byte) (bytes : List Byte) : List Instr :=
  .decArm n :: (bytes.map .rxByte ++ [.rxTmo])

/-- `TRANSACT c, P, n`: flush, send, and for `n >= 1` receive (R134). -/
def transactScript (stale : List Byte) (c : Byte) (payload : List Byte) (n : Byte) (bytes : List Byte) : List Instr :=
  flushScript stale ++ sendScript c payload ++ (if n = 0 then [] else recvScript n bytes)

/-- `setVolume v` (R140): no response is awaited. -/
def setVolumeScript (stale : List Byte) (v : Byte) : List Instr :=
  transactScript stale setVolumeCommand [v] 0 []

/-! ## The waiter's clock (R132, R133) -/

/-- `T_FIRST`, milliseconds. -/
def firstByteWait : Nat := 1000

/-- `T_INTERBYTE`, milliseconds. -/
def interByteWait : Nat := 150

/-- `T_DRAIN`, milliseconds. -/
def drainWait : Nat := 10

/-- Time passed on a clock of `w` bits that wraps around (R132). -/
def elapsed {w : Nat} (start now : BitVec w) : BitVec w := now - start

/-- Whether the elapsed time exceeds the longest wait (R131, R132). -/
def deadlinePassed {w : Nat} (start now : BitVec w) (maxWait : Nat) : Bool := decide (maxWait < (elapsed start now).toNat)

/-! ## Typed readings of the buffer (R143, spec/43_system_ops.md R123) -/

/-- The byte the host gets from the buffer. DESIGN CHOICE (notes/assumptions/14.md): the host's path to the buffer is the platform's
(spec/20_memory.md R43, spec/93_implementation_defined.md U13), and the model takes `BUF.RD`, the only one the spec defines: none
outside `IDLE` and none for an inactive offset, where `BUF.RD` is refused. -/
def hostRead (s : State) (k : Byte) : Option Byte :=
  if s.st = .idle ∧ countOf k < countOf s.blen then readBuf s (countOf k) else none

/-- A `byte` result: `buf[0]`; none where the host does not get that byte (notes/assumptions/14.md). -/
def byteResult (s : State) : Option Byte := hostRead s 0

/-- A 16-bit result: `buf[0] * 256 + buf[1]`; none where the host does not get both bytes (notes/assumptions/14.md). -/
def wordResult (s : State) : Option (BitVec 16) :=
  match hostRead s 0, hostRead s 1 with
  | some hi, some lo => some (joinWord hi lo)
  | _, _ => none

/-- A duration in seconds: `buf[0] * 3600 + buf[1] * 60 + buf[2]`; none where the host does not get the three bytes
(notes/assumptions/14.md). -/
def durationResult (s : State) : Option Nat :=
  match hostRead s 0, hostRead s 1, hostRead s 2 with
  | some h, some m, some sec => some (h.toNat * 3600 + m.toNat * 60 + sec.toNat)
  | _, _, _ => none

/-! ## The dispatcher's cache and the recovery policies (R144 to R146) -/

/-- The Local State Cache (R144). -/
structure LocalCache where
  volume : Nat
  equalizer : Nat
  loopMode : Nat
  deriving DecidableEq, Repr

/-- The defaults of a device reset: 20, 0, 2 (R144). -/
def LocalCache.defaults : LocalCache := { volume := 20, equalizer := 0, loopMode := 2 }

/-- `setVolume` updates the cache whatever the device replies (R140, R144). -/
def LocalCache.setVolume (v : Nat) (cache : LocalCache) : LocalCache := { cache with volume := v }

/-- One status reading after another, `left` of them still to come in this pass of `n`, `total` the sum so far: 0 (stopped) is
trusted at once, a pass that sums to `n` or `2 * n` agrees on 1 or 2, any other pass is followed by a new one (R145). -/
def consensusFrom (n left total : Nat) : List Nat → Option Nat
  | [] => none
  | r :: rs =>
    if r = 0 then some 0
    else if 1 < left then consensusFrom n (left - 1) (total + r) rs
    else if total + r = n then some 1
    else if total + r = 2 * n then some 2
    else consensusFrom n n 0 rs

/-- The agreed status of a sequence of readings, `none` while they have not agreed; `n = 1` takes the first (R145). -/
def consensus (n : Nat) (readings : List Nat) : Option Nat :=
  if n ≤ 1 then readings.head? else consensusFrom n n 0 readings

/-- Attempts of the device-reset policy (R146). -/
def resetAttempts : Nat := 5

/-- Polls in each attempt of the device-reset policy (R146). -/
def resetPolls : Nat := 9

/-- Polls made and whether one succeeded, with at most the given number of polls. -/
def pollUntil : Nat → List Bool → Nat × Bool
  | 0, _ => (0, false)
  | _, [] => (0, false)
  | k + 1, found :: later =>
    if found then (1, true) else ((pollUntil k later).1 + 1, (pollUntil k later).2)

/-- The device-reset policy over the answers of its polls: the first success ends it, and every fifth unsuccessful attempt of
nine polls ends it silently (R146). -/
def deviceReset (found : List Bool) : Nat × Bool := pollUntil (resetAttempts * resetPolls) found

end Sys2Proof.Machine
end

