-- ==== Sys2Proof/Safety.lean ====
section
/-!
DEFINITION. What claims about the codec are stated in: the admission and transition tables, the invariants, the end of a run,
and the closed form of a decode.
-/

namespace Sys2Proof.Machine

/-! ## Admission and transitions -/

/-- The eight operations and the reserved codes, which event words select (spec/30_encoding.md R66, R68); the other rows are
micro-operations and wire formats (R67). -/
def isEvent : Instr → Bool
  | .rst | .encStart _ _ | .encData _ | .decArm _ | .rxByte _ | .rxTmo | .bufRd _ | .statRd | .reserved _ _ _ => true
  | .accClr | .accAdd _ | .accEq _ | .reqFrame _ _ | .rspFrame _ _ _ | .cmdSetVolume _ => false

/-- Whether an operation is admitted, by the column "admitted in `st`" of spec/30_encoding.md R66; a frame is admitted where all
its events are, one after the other. -/
def admitted (i : Instr) (s : State) : Bool :=
  match i with
  | .rst | .statRd | .accClr | .accAdd _ | .accEq _ => true
  | .encStart _ _ | .decArm _ | .cmdSetVolume _ => s.st == .idle
  | .encData _ => s.st == .enc
  | .rxByte _ | .rxTmo | .rspFrame _ _ _ => s.st != .enc
  | .bufRd k => s.st == .idle && decide (k.toNat < s.blen.toNat)
  | .reqFrame _ payload => s.st == .idle && decide (payload.length ≤ 255)
  | .reserved _ _ _ => false

/-- The row of `RX.BYTE` in the transition table (spec/10_state.md R25). -/
def rxByteCell : Phase → List Phase
  | .idle => [.idle]
  | .enc => []
  | .header => [.header, .payload, .checksum]
  | .payload => [.payload, .checksum]
  | .checksum => [.done]
  | .done => [.done]

/-- The row of `RX.TMO` in the transition table (spec/10_state.md R25). -/
def rxTmoCell : Phase → List Phase
  | .enc => []
  | .idle | .header | .payload | .checksum | .done => [.idle]

/-- The cell of the transition table spec/10_state.md R25 for an event: the phases it may lead to, none where it is refused. The
rows that are no events have no cell. -/
def transitionCell (i : Instr) (s : State) : List Phase :=
  match i with
  | .rst => [.idle]
  | .encStart _ l => if s.st = .idle then (if 1 ≤ l.toNat then [.enc] else [.idle]) else []
  | .encData _ => if s.st = .enc then (if s.rem.toNat = 1 then [.idle] else [.enc]) else []
  | .decArm n => if s.st = .idle then (if 1 ≤ n.toNat then [.header] else [.idle]) else []
  | .rxByte _ => rxByteCell s.st
  | .rxTmo => rxTmoCell s.st
  | .bufRd k => if s.st = .idle then (if k.toNat < s.blen.toNat then [.idle] else []) else []
  | .statRd => [s.st]
  | .reserved _ _ _ => []
  | .accClr | .accAdd _ | .accEq _ | .reqFrame _ _ | .rspFrame _ _ _ | .cmdSetVolume _ => []

/-! ## Invariants (spec/10_state.md R33) -/

/-- Every active offset has been written. -/
abbrev activeWritten (s : State) : Prop := ∀ k < s.blen.toNat, (readBuf s k).isSome

/-- Every active byte is zero. -/
abbrev activeZero (s : State) : Prop := ∀ k < s.blen.toNat, readBuf s k = some 0

/-- What holds in every state that admitted events reach from reset: the clauses of spec/10_state.md R33 that speak of the state
alone, the canonical form of the buffer, and that active bytes are written (spec/43_system_ops.md R122). -/
structure State.Inv (s : State) : Prop where
  /-- The buffer is in its canonical form. -/
  canonical : s.buf.wf = true
  /-- Every active offset has been written. -/
  written : activeWritten s
  /-- R33 (b). -/
  owes : s.st = .enc ↔ 1 ≤ s.rem.toNat
  /-- R33 (c), for every phase. -/
  position : s.hpos.toNat + 1 ≤ s.cfg.hdrLen.toNat
  /-- R33 (c). -/
  inHeader : s.st = .header → s.cnt = 0 ∧ s.off = 0 ∧ s.vd = .none
  /-- R33 (d), with the captured length read as `off + cnt`. -/
  inPayload : s.st = .payload →
    1 ≤ s.cnt.toNat ∧ s.hpos.toNat + 1 = s.cfg.hdrLen.toNat ∧ s.off.toNat + s.cnt.toNat ≤ 255 ∧ s.vd = .none
  /-- R33 (e). -/
  inChecksum : s.st = .checksum → s.cnt = 0 ∧ s.hpos.toNat + 1 = s.cfg.hdrLen.toNat ∧ s.vd = .none
  /-- R33 (f). -/
  inDone : s.st = .done → s.vd = .ok ∨ s.vd = .sumErr
  /-- R33 (g), the capacity of an armed decoder. -/
  armed : s.st = .header ∨ s.st = .payload ∨ s.st = .checksum → 1 ≤ s.blen.toNat
  /-- R33 (h). -/
  failureZero : s.vd = .sumErr ∨ s.vd = .tmo → activeZero s

/-! ## Runs -/

/-- A run is over when its last event was performed and left the block idle (spec/70_reset_and_hazards.md R197). -/
def runOver (o : Outcome) : Prop := ∃ s, o = .next s ∧ s.st = .idle

/-- The active bytes of the buffer, in order. -/
def activeBytes (s : State) : List (Option Byte) := (List.range s.blen.toNat).map (readBuf s)

/-- A payload as it stands in a buffer of `n` zeroed bytes: cut to `n`, filled with zeros. -/
def padded (n : Nat) (payload : List Byte) : List Byte := (payload ++ List.replicate n 0).take n

/-- The closed form of `Decode(H, n, B)`: the verdict and the `n` buffer bytes (spec/42_decoder.md R112). -/
def decodeClosed (h n : Nat) (bytes : List Byte) : Verdict × List Byte :=
  match bytes[h - 1]? with
  | none => (.tmo, List.replicate n 0)
  | some l =>
    match bytes[h + l.toNat]? with
    | none => (.tmo, List.replicate n 0)
    | some x =>
      if x = sum8 (bytes.take (h + l.toNat)) then (.ok, padded n ((bytes.drop h).take l.toNat))
      else (.sumErr, List.replicate n 0)

/-- A run of `Decode(H, n, B)` ends, idle, with a verdict and active bytes (spec/42_decoder.md R112). -/
def decodesTo (s : State) (n : Byte) (bytes : List Byte) (result : Verdict × List Byte) : Prop :=
  ∃ t, runScript (recvScript n bytes) s = .next t ∧ t.st = .idle ∧ t.blen = n ∧
    t.vd = result.1 ∧ activeBytes t = result.2.map some

end Sys2Proof.Machine
end

