-- ==== Sys2Proof/Certificates/Slice0/Obligations.lean ====
section
/-!
DEFINITION. The statements about the codec, for the provers. Each docstring names the rule of spec/ it formalises.
-/

open Sys2Proof Sys2Proof.Machine

/-! ## Reset and the system operations -/

/-- spec/10_state.md R34: the registers after power-on and after `RST`; at power-on nothing has been emitted; `RST` leaves the
buffer, the output and `HDR_LEN`; in both cases no buffer byte is readable. -/
def Obligations.ResetState : Prop :=
  (State.reset.sum = 0 ∧ State.reset.cnt = 0 ∧ State.reset.rem = 0 ∧ State.reset.off = 0 ∧ State.reset.hpos = 0 ∧
    State.reset.blen = 0 ∧ State.reset.st = .idle ∧ State.reset.vd = .none ∧ State.reset.tx = [] ∧
    ∀ k, exec (.bufRd k) State.reset = .refused (.inactiveOffset k)) ∧
  ∀ s, ∃ t, exec .rst s = .next t ∧
    t.sum = 0 ∧ t.cnt = 0 ∧ t.rem = 0 ∧ t.off = 0 ∧ t.hpos = 0 ∧ t.blen = 0 ∧ t.st = .idle ∧ t.vd = .none ∧
    (∀ k, readBuf t k = readBuf s k) ∧ t.tx = s.tx ∧ t.cfg = s.cfg ∧
    ∀ k, exec (.bufRd k) t = .refused (.inactiveOffset k)

/-- The model's own choices (notes/assumptions/1.md, 2.md, 3.md, 4.md): at reset nothing is pending, nothing has been answered, no
buffer offset holds a value, `HDR_LEN` is the default 3, and a block without a delivered event waits as it is. -/
def Obligations.ResetModelFields : Prop :=
  State.reset.pending = [] ∧ State.reset.answers = [] ∧ State.reset.cfg.hdrLen = .three ∧
  (∀ k, readBuf State.reset k = none) ∧ ∀ s : State, s.pending = [] → step s = .next s

/-- spec/43_system_ops.md R120: `RST` in every state. -/
def Obligations.RstEffect : Prop :=
  ∀ s, exec .rst s = .next
    { s with sum := 0, cnt := 0, rem := 0, off := 0, hpos := 0, blen := 0, vd := .none, st := .idle }

/-- spec/43_system_ops.md R122: `BUF.RD k` hands back the byte at an active offset in `IDLE` and changes no state (the answers
given are the model's record, notes/assumptions/4.md); it is refused elsewhere, outside `IDLE` naming the phase
(notes/assumptions/13.md); in every state that keeps the invariant an active offset has been written. -/
def Obligations.BufRdEffect : Prop :=
  (∀ s k b, s.st = .idle → k.toNat < s.blen.toNat → readBuf s k.toNat = some b →
    exec (.bufRd k) s = .next { s with answers := s.answers ++ [.byte b] }) ∧
  (∀ s k, s.st = .idle → s.blen.toNat ≤ k.toNat → exec (.bufRd k) s = .refused (.inactiveOffset k)) ∧
  (∀ s k, s.st ≠ .idle → exec (.bufRd k) s = .refused (.notAdmitted s.st)) ∧
  (∀ s k, s.Inv → s.st = .idle → k.toNat < s.blen.toNat → ∃ b, readBuf s k.toNat = some b ∧
    exec (.bufRd k) s = .next { s with answers := s.answers ++ [.byte b] })

/-- spec/43_system_ops.md R124: `STAT.RD` hands back the eight registers in the 47-bit word, in every state, and changes no state
(the answers given are the model's record, notes/assumptions/4.md). -/
def Obligations.StatRdEffect : Prop :=
  ∀ s, ∃ w : StatWord, exec .statRd s = .next { s with answers := s.answers ++ [.status w] } ∧
    w.extractLsb' 39 8 = s.sum ∧ w.extractLsb' 31 8 = s.cnt ∧ w.extractLsb' 23 8 = s.rem ∧
    w.extractLsb' 15 8 = s.off ∧ w.extractLsb' 7 8 = s.blen ∧ w.extractLsb' 5 2 = s.hpos ∧
    (w.extractLsb' 2 3).toNat =
      (match s.st with | .idle => 0 | .enc => 1 | .header => 2 | .payload => 3 | .checksum => 4 | .done => 5) ∧
    (w.extractLsb' 0 2).toNat = (match s.vd with | .none => 0 | .ok => 1 | .sumErr => 2 | .tmo => 3)

/-- spec/30_encoding.md R68: a reserved op code is refused in every state; exactly the op codes 8 to 15 are reserved, and every
word with another op code decodes to one of the eight operations (no hint, no custom space). -/
def Obligations.ReservedRefused : Prop :=
  (∀ op a b s, exec (.reserved op a b) s = .refused (.reservedOp op)) ∧
  (∀ w : EventWord, 8 ≤ (opField w).toNat → ∃ a b, decodeEvent w = .reserved (opField w) a b) ∧
  (∀ w : EventWord, (opField w).toNat < 8 → ∀ op a b, decodeEvent w ≠ .reserved op a b) ∧
  ∀ (s : State) (w : EventWord), 8 ≤ (opField w).toNat → exec (decodeEvent w) s = .refused (.reservedOp (opField w))

/-! ## The accumulator -/

/-- spec/40_checksum_accumulator.md R81, R82, R83: the three micro-operations, each run by itself (notes/assumptions/5.md): clear,
add modulo 256, compare without changing the sum. -/
def Obligations.AccumulatorMicroOps : Prop :=
  (∀ s, exec .accClr s = .next { s with sum := 0 }) ∧
  (∀ s b, exec (.accAdd b) s = .next { s with sum := BitVec.ofNat 8 ((s.sum.toNat + b.toNat) % 256) }) ∧
  ∀ s b, exec (.accEq b) s = .next { s with answers := s.answers ++ [.equal (decide (b.toNat = s.sum.toNat))] }

/-- spec/40_checksum_accumulator.md R84: `Sum8` is the sum modulo 256; a clear and additions in any order leave it in `sum`; it is
the last byte of a request frame. -/
def Obligations.Sum8AfterAdditions : Prop :=
  (∀ bs, (sum8 bs).toNat = (bs.map BitVec.toNat).sum % 256) ∧
  (∀ (s : State) (bs order : List Byte), order.Perm bs →
    order.foldl (fun u b => accAdd b u) (accClr s) = { s with sum := sum8 bs }) ∧
  (∀ c payload, (requestBytes c payload).getLast? =
    some (sum8 ([0xAA, c, BitVec.ofNat 8 payload.length] ++ payload))) ∧
  ∀ (s : State) (n : Byte) (bytes : List Byte) (l : Byte) (t : State), s.st = .idle → 1 ≤ n.toNat →
    bytes[s.cfg.hdrLen.toNat - 1]? = some l → bytes.length = s.cfg.hdrLen.toNat + l.toNat →
    runScript (.decArm n :: bytes.map .rxByte) s = .next t → t.st = .checksum ∧ t.sum = sum8 bytes

/-- spec/40_checksum_accumulator.md R86: (a) concatenation, (b) order, (c) one changed byte, a single bit among them,
(d) changes that cancel, (e) zero bytes, (f) a sum with its own value appended, which is no constant. -/
def Obligations.Sum8Laws : Prop :=
  (∀ as bs, (sum8 (as ++ bs)).toNat = ((sum8 as).toNat + (sum8 bs).toNat) % 256) ∧
  (∀ as bs : List Byte, as.Perm bs → sum8 as = sum8 bs) ∧
  (∀ as bs (x y : Byte), x ≠ y → sum8 (as ++ x :: bs) ≠ sum8 (as ++ y :: bs)) ∧
  (∀ as bs (x : Byte) (j : Nat), j < 8 →
    sum8 (as ++ (x ^^^ (1#8 <<< j)) :: bs) = sum8 (as ++ x :: bs) + 1#8 <<< j ∨
    sum8 (as ++ (x ^^^ (1#8 <<< j)) :: bs) = sum8 (as ++ x :: bs) - 1#8 <<< j) ∧
  (∀ as bs : List Byte, as.length = bs.length →
    (sum8 (List.zipWith (fun x y => y - x) as bs) = 0 ↔ sum8 bs = sum8 as)) ∧
  (∀ as bs, sum8 (as ++ 0 :: bs) = sum8 (as ++ bs)) ∧
  (∀ bs, (sum8 (bs ++ [sum8 bs])).toNat = (2 * (sum8 bs).toNat) % 256) ∧
  ∃ as bs, sum8 (as ++ [sum8 as]) ≠ sum8 (bs ++ [sum8 bs])

/-! ## The encoder -/

/-- spec/41_encoder.md R91: `ENC.START c, l` in `IDLE` emits marker, command and length, sums them, and for `l = 0` the
checksum too; refused elsewhere. -/
def Obligations.EncStartEffect : Prop :=
  (∀ s c l, s.st = .idle → exec (.encStart c l) s = .next
    (if l.toNat = 0 then
      { s with sum := 0xAA + c + l, rem := l, st := .idle, tx := s.tx ++ [0xAA, c, l, 0xAA + c + l] }
    else { s with sum := 0xAA + c + l, rem := l, st := .enc, tx := s.tx ++ [0xAA, c, l] })) ∧
  ∀ s c l, s.st ≠ .idle → exec (.encStart c l) s = .refused (.notAdmitted s.st)

/-- spec/41_encoder.md R92: `ENC.DATA b` in `ENC` emits and sums one byte, and after the last one the checksum; refused
elsewhere. -/
def Obligations.EncDataEffect : Prop :=
  (∀ s b, s.st = .enc → 1 ≤ s.rem.toNat → exec (.encData b) s = .next
    (if s.rem.toNat = 1 then
      { s with sum := s.sum + b, rem := 0, st := .idle, tx := s.tx ++ [b, s.sum + b] }
    else { s with sum := s.sum + b, rem := s.rem - 1, st := .enc, tx := s.tx ++ [b] })) ∧
  ∀ s b, s.st ≠ .enc → exec (.encData b) s = .refused (.notAdmitted s.st)

/-- spec/41_encoder.md R90: the frame of the encoder's operations, the two wire rows built of them among them: the buffer, the
decoder's registers, the verdict, the parameters, the answers and the event stream are unchanged; the output only grows. -/
def Obligations.EncoderFrame : Prop :=
  ∀ i s t, ((∃ c l, i = .encStart c l) ∨ (∃ b, i = .encData b) ∨ (∃ c payload, i = .reqFrame c payload) ∨
      ∃ v, i = .cmdSetVolume v) → exec i s = .next t →
    (∀ k, readBuf t k = readBuf s k) ∧ t.cnt = s.cnt ∧ t.off = s.off ∧ t.hpos = s.hpos ∧ t.blen = s.blen ∧ t.vd = s.vd ∧
    t.cfg = s.cfg ∧ t.answers = s.answers ∧ t.pending = s.pending ∧ ∃ bs, t.tx = s.tx ++ bs

/-- spec/41_encoder.md R93: from `IDLE` the event sequence of a request emits exactly `Encode(c, P)`, ends in `IDLE` with the
checksum in `sum` and nothing owed, and changes nothing else. -/
def Obligations.RequestFrameEmitted : Prop :=
  ∀ s c payload, s.st = .idle → payload.length ≤ 255 →
    requestBytes c payload = [0xAA, c, BitVec.ofNat 8 payload.length] ++ payload ++
      [sum8 ([0xAA, c, BitVec.ofNat 8 payload.length] ++ payload)] ∧
    (requestBytes c payload).length = payload.length + 4 ∧
    runScript (.encStart c (BitVec.ofNat 8 payload.length) :: payload.map .encData) s = .next
      { s with sum := sum8 ([0xAA, c, BitVec.ofNat 8 payload.length] ++ payload), rem := 0, st := .idle,
               tx := s.tx ++ requestBytes c payload }

/-- The row `REQ_FRAME` run as one operation (notes/assumptions/6.md): in `IDLE` it completes for every command and payload of at
most 255 bytes, emitting the frame of spec/30_encoding.md R60; elsewhere it is refused. -/
def Obligations.RequestFrameRow : Prop :=
  (∀ s c payload, s.st = .idle → payload.length ≤ 255 → exec (.reqFrame c payload) s = .next
    { s with sum := sum8 ([0xAA, c, BitVec.ofNat 8 payload.length] ++ payload), rem := 0, st := .idle,
             tx := s.tx ++ [0xAA, c, BitVec.ofNat 8 payload.length] ++ payload ++
               [sum8 ([0xAA, c, BitVec.ofNat 8 payload.length] ++ payload)] }) ∧
  ∀ s c payload, s.st ≠ .idle → exec (.reqFrame c payload) s = .refused (.notAdmitted s.st)

/-- spec/44_host_transaction.md R140, spec/90_conflicts.md C2: the wire of `setVolume v` is `AA 13 01 v s` with
`s = (0xBE + v) mod 256`, for every byte `v`; refused outside `IDLE` (the row's meaning is notes/assumptions/6.md). -/
def Obligations.SetVolumeFrame : Prop :=
  (∀ s v, s.st = .idle → exec (.cmdSetVolume v) s = .next
    { s with sum := 0xBE + v, rem := 0, st := .idle, tx := s.tx ++ [0xAA, 0x13, 0x01, v, 0xBE + v] }) ∧
  ∀ s v, s.st ≠ .idle → exec (.cmdSetVolume v) s = .refused (.notAdmitted s.st)

/-- spec/41_encoder.md R95: what is emitted for a command and a payload does not depend on the state, so sending twice emits two
identical frames. -/
def Obligations.EncodeIgnoresState : Prop :=
  ∀ c payload s t, s.st = .idle → payload.length ≤ 255 →
    runScript (sendScript c payload ++ sendScript c payload) s = .next t →
    ∃ frame, t.tx = s.tx ++ frame ++ frame ∧
      ∀ s' t', s'.st = .idle → runScript (sendScript c payload) s' = .next t' → t'.tx = s'.tx ++ frame

/-- spec/41_encoder.md R94, spec/70_reset_and_hazards.md R192: among the events only `ENC.DATA` and `RST` leave `ENC`; `ENC.DATA`
leaves it exactly with the last byte owed; and a byte more is refused. -/
def Obligations.OnlyDataOrResetLeavesEnc : Prop :=
  (∀ i s t, isEvent i = true → s.st = .enc → exec i s = .next t → t.st ≠ .enc →
    i = .rst ∨ ∃ b, i = .encData b ∧ s.rem.toNat = 1) ∧
  ∀ c payload b s, s.st = .idle → payload.length ≤ 255 →
    runScript (sendScript c payload ++ [.encData b]) s = .refused (.notAdmitted .idle)

/-! ## The decoder -/

/-- spec/42_decoder.md R101: `DEC.ARM n`, `n >= 1`, in `IDLE` zeroes exactly `buf[0 .. n-1]` and starts the decoder; refused
elsewhere. -/
def Obligations.DecArmEffect : Prop :=
  (∀ s n, s.st = .idle → 1 ≤ n.toNat → ∃ t, exec (.decArm n) s = .next t ∧
    t = { s with blen := n, sum := 0, cnt := 0, off := 0, hpos := 0, vd := .none, st := .header, buf := t.buf } ∧
    ∀ k, readBuf t k = if k < n.toNat then some 0 else readBuf s k) ∧
  ∀ s n, s.st ≠ .idle → exec (.decArm n) s = .refused (.notAdmitted s.st)

/-- spec/42_decoder.md R102: `DEC.ARM 0` changes nothing. -/
def Obligations.DecArmZeroNoEffect : Prop :=
  (∀ s, s.st = .idle → exec (.decArm 0) s = .next s) ∧
  ∀ s, s.st ≠ .idle → exec (.decArm 0) s = .refused (.notAdmitted s.st)

/-- spec/42_decoder.md R103: `RX.BYTE b` in `HEADER`. -/
def Obligations.RxByteInHeader : Prop :=
  ∀ s b, s.st = .header → s.hpos.toNat + 1 ≤ s.cfg.hdrLen.toNat → exec (.rxByte b) s = .next
    (if s.hpos.toNat + 1 = s.cfg.hdrLen.toNat then
      { s with sum := s.sum + b, cnt := b, st := if b.toNat = 0 then .checksum else .payload }
    else { s with sum := s.sum + b, hpos := s.hpos + 1 })

/-- spec/42_decoder.md R104: `RX.BYTE b` in `PAYLOAD`; the byte is stored at `off` exactly when `off < blen`, and every other
byte of the buffer is as before. -/
def Obligations.RxByteInPayload : Prop :=
  ∀ s b, s.st = .payload → 1 ≤ s.cnt.toNat → s.off.toNat ≤ 254 → ∃ t, exec (.rxByte b) s = .next t ∧
    t = { s with sum := s.sum + b, off := s.off + 1, cnt := s.cnt - 1,
                 st := if s.cnt.toNat = 1 then .checksum else .payload, buf := t.buf } ∧
    payloadSlot s = (if s.off.toNat < s.blen.toNat then some s.off.toNat else none) ∧
    (∀ k, payloadSlot s = some k → readBuf t k = some b) ∧
    ∀ k, payloadSlot s ≠ some k → readBuf t k = readBuf s k

/-- spec/42_decoder.md R105, R106: `RX.BYTE b` in `CHECKSUM`: the verdict; on a mismatch every active byte is zeroed and no
other. -/
def Obligations.RxByteInChecksum : Prop :=
  (∀ s, s.st = .checksum → exec (.rxByte s.sum) s = .next { s with vd := .ok, st := .done }) ∧
  ∀ s b, s.st = .checksum → b ≠ s.sum → ∃ t, exec (.rxByte b) s = .next t ∧
    t = { s with vd := .sumErr, st := .done, buf := t.buf } ∧
    ∀ k, readBuf t k = if k < s.blen.toNat then some 0 else readBuf s k

/-- spec/42_decoder.md R107: in `DONE` and `IDLE` a received byte is dropped. -/
def Obligations.RxByteDropped : Prop :=
  ∀ s b, s.st = .done ∨ s.st = .idle → exec (.rxByte b) s = .next s

/-- spec/42_decoder.md R108, R109, R110: `RX.TMO` before a verdict, after it, and in `IDLE`. -/
def Obligations.RxTmoEffect : Prop :=
  (∀ s, s.st = .header ∨ s.st = .payload ∨ s.st = .checksum → ∃ t, exec .rxTmo s = .next t ∧
    t = { s with vd := .tmo, st := .idle, buf := t.buf } ∧
    ∀ k, readBuf t k = if k < s.blen.toNat then some 0 else readBuf s k) ∧
  (∀ s, s.st = .done → exec .rxTmo s = .next { s with st := .idle }) ∧
  ∀ s, s.st = .idle → exec .rxTmo s = .next s

/-- spec/42_decoder.md R111: `RX.BYTE` and `RX.TMO` in `ENC` are refused. -/
def Obligations.ReceiveRefusedInEnc : Prop :=
  ∀ s, s.st = .enc → exec .rxTmo s = .refused (.notAdmitted .enc) ∧
    ∀ b, exec (.rxByte b) s = .refused (.notAdmitted .enc)

/-- spec/42_decoder.md R100: the frame of the decoder's operations, the row `RSP_FRAME` among them: nothing is emitted, `rem`,
the parameters, the answers and the event stream are unchanged, and no byte at an inactive offset is. -/
def Obligations.DecoderFrame : Prop :=
  ∀ i s t, ((∃ n, i = .decArm n) ∨ (∃ b, i = .rxByte b) ∨ i = .rxTmo ∨ ∃ header payload x, i = .rspFrame header payload x) →
    exec i s = .next t →
    t.tx = s.tx ∧ t.rem = s.rem ∧ t.cfg = s.cfg ∧ t.answers = s.answers ∧ t.pending = s.pending ∧
    ∀ k, t.blen.toNat ≤ k → readBuf t k = readBuf s k

/-- spec/10_state.md R33 (c), (d), (e), (g), (i) and R23: after arming with `n` and any bytes, the registers and the active bytes
are those bytes' own. -/
def Obligations.DecoderStateFollowsBytes : Prop :=
  ∀ (s : State) (n : Byte) (bytes : List Byte), s.st = .idle → 1 ≤ n.toNat →
    ∃ t, runScript (.decArm n :: bytes.map .rxByte) s = .next t ∧ t.blen = n ∧
    (bytes.length < s.cfg.hdrLen.toNat →
      t.st = .header ∧ t.hpos.toNat = bytes.length ∧ t.cnt = 0 ∧ t.off = 0 ∧ t.sum = sum8 bytes ∧ t.vd = .none ∧
      activeBytes t = List.replicate n.toNat (some 0)) ∧
    ∀ l, bytes[s.cfg.hdrLen.toNat - 1]? = some l →
      t.hpos.toNat + 1 = s.cfg.hdrLen.toNat ∧
      (bytes.length < s.cfg.hdrLen.toNat + l.toNat →
        t.st = .payload ∧ t.off.toNat = bytes.length - s.cfg.hdrLen.toNat ∧ t.off.toNat + t.cnt.toNat = l.toNat ∧
        t.sum = sum8 bytes ∧ t.vd = .none ∧
        activeBytes t = (padded n.toNat (bytes.drop s.cfg.hdrLen.toNat)).map some) ∧
      (bytes.length = s.cfg.hdrLen.toNat + l.toNat →
        t.st = .checksum ∧ t.off = l ∧ t.cnt = 0 ∧ t.sum = sum8 bytes ∧ t.vd = .none ∧
        activeBytes t = (padded n.toNat (bytes.drop s.cfg.hdrLen.toNat)).map some) ∧
      (s.cfg.hdrLen.toNat + l.toNat < bytes.length →
        t.st = .done ∧ t.off = l ∧ t.cnt = 0 ∧ t.sum = sum8 (bytes.take (s.cfg.hdrLen.toNat + l.toNat)) ∧
        (t.vd, activeBytes t) =
          if bytes[s.cfg.hdrLen.toNat + l.toNat]? = some t.sum then
            (.ok, (padded n.toNat ((bytes.drop s.cfg.hdrLen.toNat).take l.toNat)).map some)
          else (.sumErr, List.replicate n.toNat (some 0)))

/-- spec/42_decoder.md R112: `Decode(H, n, B)` for both header lengths, every `n >= 1` and every byte sequence. -/
def Obligations.DecodeClosedForm : Prop :=
  ∀ (s : State) (n : Byte) (bytes : List Byte), s.st = .idle → 1 ≤ n.toNat →
    decodesTo s n bytes (decodeClosed s.cfg.hdrLen.toNat n.toNat bytes)

/-- spec/42_decoder.md R113: when a decode is accepted. -/
def Obligations.AcceptanceCriterion : Prop :=
  ∀ (s : State) (n : Byte) (bytes : List Byte) (t : State), s.st = .idle → 1 ≤ n.toNat →
    runScript (recvScript n bytes) s = .next t →
    (t.vd = .ok ↔ ∃ l, bytes[s.cfg.hdrLen.toNat - 1]? = some l ∧
      bytes[s.cfg.hdrLen.toNat + l.toNat]? = some (sum8 (bytes.take (s.cfg.hdrLen.toNat + l.toNat))))

/-- spec/42_decoder.md R114: the round trip, for the three-byte header with `Encode`, for the two-byte header with the
marker-less form; with the two-byte header it fails for `Encode`. -/
def Obligations.RoundTripRecoversPayload : Prop :=
  (∀ (s : State) (n c : Byte) (payload : List Byte), s.st = .idle → 1 ≤ n.toNat → payload.length ≤ 255 →
    (s.cfg.hdrLen = .three → decodesTo s n (requestBytes c payload) (.ok, padded n.toNat payload)) ∧
    (s.cfg.hdrLen = .two → decodesTo s n
      ([c, lengthByte payload] ++ payload ++ [sum8 ([c, lengthByte payload] ++ payload)])
      (.ok, padded n.toNat payload))) ∧
  ∃ (s : State) (n c : Byte) (payload : List Byte), s.st = .idle ∧ s.cfg.hdrLen = .two ∧ 1 ≤ n.toNat ∧
    payload.length ≤ 255 ∧ ¬ decodesTo s n (requestBytes c payload) (.ok, padded n.toNat payload)

/-- spec/42_decoder.md R115: one changed byte (one flipped bit is one) in an accepted frame: (a) outside the length byte it is
detected; (b) a raised length ends in a timeout; (c) a lowered length is accepted exactly when one payload byte has one value. -/
def Obligations.OneByteCorruption : Prop :=
  ∀ (s : State) (n : Byte) (frame : List Byte) (l : Byte), s.st = .idle → 1 ≤ n.toNat →
    frame[s.cfg.hdrLen.toNat - 1]? = some l → frame.length = s.cfg.hdrLen.toNat + l.toNat + 1 →
    frame[s.cfg.hdrLen.toNat + l.toNat]? = some (sum8 (frame.take (s.cfg.hdrLen.toNat + l.toNat))) →
    (∀ j x y, j ≠ s.cfg.hdrLen.toNat - 1 → frame[j]? = some y → x ≠ y →
      decodesTo s n (frame.set j x) (.sumErr, List.replicate n.toNat 0)) ∧
    (∀ l' : Byte, l.toNat < l'.toNat →
      decodesTo s n (frame.set (s.cfg.hdrLen.toNat - 1) l') (.tmo, List.replicate n.toNat 0)) ∧
    ∀ l' : Byte, l'.toNat < l.toNat →
      decodesTo s n (frame.set (s.cfg.hdrLen.toNat - 1) l')
        (if frame[s.cfg.hdrLen.toNat + l'.toNat]? =
            some (sum8 (frame.take (s.cfg.hdrLen.toNat + l'.toNat)) - (l - l')) then
          (.ok, padded n.toNat ((frame.drop s.cfg.hdrLen.toNat).take l'.toNat))
        else (.sumErr, List.replicate n.toNat 0))

/-- spec/42_decoder.md R116: a decode that fails leaves every active byte zero; the converse does not hold. -/
def Obligations.FailedDecodeLeavesZeros : Prop :=
  (∀ (s : State) (n : Byte) (bytes : List Byte) (t : State), s.st = .idle → 1 ≤ n.toNat →
    runScript (recvScript n bytes) s = .next t → t.vd = .sumErr ∨ t.vd = .tmo →
    ∀ k < t.blen.toNat, readBuf t k = some 0) ∧
  ∃ (s : State) (n : Byte) (bytes : List Byte) (t : State), s.st = .idle ∧ 1 ≤ n.toNat ∧
    runScript (recvScript n bytes) s = .next t ∧ (∀ k < t.blen.toNat, readBuf t k = some 0) ∧ t.vd = .ok

/-- spec/42_decoder.md R117: a payload longer than the buffer is consumed whole, its first bytes are stored, and `off` counts all
of it. -/
def Obligations.DrainingAcceptsLongPayload : Prop :=
  ∀ (s : State) (n : Byte) (header payload : List Byte), s.st = .idle → 1 ≤ n.toNat →
    headerFits s.cfg.hdrLen header = true → payload.length ≤ 255 → n.toNat < payload.length →
    ∃ t, runScript (recvScript n (responseBytes header payload (sum8 (responseBody header payload)))) s = .next t ∧
      t.vd = .ok ∧ t.off.toNat = payload.length ∧ activeBytes t = (payload.take n.toNat).map some

/-- spec/30_encoding.md R61: a whole response frame received by a decoder that has received nothing yet: every field of the state
after it (the row's meaning is notes/assumptions/6.md). -/
def Obligations.ResponseFrameReceived : Prop :=
  ∀ (s : State) (header payload : List Byte) (x : Byte), s.st = .header → s.hpos = 0 → s.off = 0 →
    headerFits s.cfg.hdrLen header = true → payload.length ≤ 255 →
    ∃ t, exec (.rspFrame header payload x) s = .next t ∧
      t = { s with sum := s.sum + sum8 (responseBody header payload), cnt := 0, off := lengthByte payload,
                   hpos := BitVec.ofNat 2 (s.cfg.hdrLen.toNat - 1), st := .done, buf := t.buf,
                   vd := if x = s.sum + sum8 (responseBody header payload) then .ok else .sumErr } ∧
      ∀ k, readBuf t k =
        if k < s.blen.toNat then
          if x = s.sum + sum8 (responseBody header payload) then (payload[k]?).or (readBuf s k) else some 0
        else readBuf s k

/-- spec/30_encoding.md R61 with spec/42_decoder.md R107, R111: in `IDLE` and `DONE` a response frame is dropped byte by byte, in
`ENC` it is refused. -/
def Obligations.ResponseFrameElsewhere : Prop :=
  (∀ s header payload x, s.st = .idle ∨ s.st = .done → exec (.rspFrame header payload x) s = .next s) ∧
  ∀ s header payload x, s.st = .enc → exec (.rspFrame header payload x) s = .refused (.notAdmitted .enc)

/-- spec/60_exceptions.md R160: after a timeout, no byte at all had been received exactly if `hpos` is 0. -/
def Obligations.TimeoutCasesToldApart : Prop :=
  ∀ (s : State) (n : Byte) (bytes : List Byte) (t : State), s.st = .idle → 1 ≤ n.toNat →
    runScript (recvScript n bytes) s = .next t → t.vd = .tmo → (t.hpos = 0 ↔ bytes = [])

/-! ## Steps, admission and transitions -/

/-- spec/30_encoding.md R63: a step consumes the oldest event and performs the operation its word decodes to. -/
def Obligations.StepRunsDecodedEvent : Prop :=
  ∀ (s : State) (w : EventWord) (rest : List EventWord), s.pending = w :: rest →
    step s = exec (decodeEvent w) { s with pending := rest }

/-- Steps over delivered events are the operations those events decode to, in order (spec/30_encoding.md R63); the events behind
them stay pending. -/
def Obligations.RunFollowsScript : Prop :=
  ∀ (ws rest : List EventWord) (s t : State),
    runScript (ws.map decodeEvent) { s with pending := rest } = .next t →
    Host.Core.run Sys2Proof.core ws.length ({ s with pending := ws ++ rest } : State) = .next t

/-- spec/10_state.md R25: the transition table, for every event in every state that keeps the invariant. -/
def Obligations.TransitionTable : Prop :=
  ∀ i s, isEvent i = true → s.Inv →
    (transitionCell i s = [] ∧ ∃ r, exec i s = .refused r) ∨ ∃ t, exec i s = .next t ∧ t.st ∈ transitionCell i s

/-- spec/30_encoding.md R70: an event word is refused exactly where the table says `refuse` or the op code is reserved; `RST` and
`STAT.RD` never are. -/
def Obligations.RefusedExactly : Prop :=
  (∀ (s : State) (w : EventWord), s.Inv →
    ((∃ r, exec (decodeEvent w) s = .refused r) ↔ transitionCell (decodeEvent w) s = [])) ∧
  ∀ s r, exec .rst s ≠ .refused r ∧ exec .statRd s ≠ .refused r

/-- Every row of the table completes exactly where it is admitted, in every state that keeps the invariant (spec/30_encoding.md
R66; the micro-operations and wire rows are notes/assumptions/5.md, 6.md). -/
def Obligations.CompletesExactlyWhereAdmitted : Prop :=
  ∀ i s, s.Inv → ((∃ t, exec i s = .next t) ↔ admitted i s = true)

/-! ## Invariants and rules of the whole machine -/

/-- spec/10_state.md R33: every step keeps the invariant. -/
def Obligations.StepKeepsInvariant : Prop :=
  ∀ s t : State, s.Inv → step s = .next t → t.Inv

/-- The invariant holds at reset, for both header lengths and whatever events are delivered. -/
def Obligations.ResetMeetsInvariant : Prop :=
  ∀ (h : HdrLen) (ws : List EventWord), ({ State.reset with cfg := { hdrLen := h }, pending := ws } : State).Inv

/-- spec/43_system_ops.md R122 ("no read returns an unwritten value"): from a state that keeps the invariant no number of steps
ends in a fault. -/
def Obligations.NoRunFaults : Prop :=
  ∀ (k : Nat) (s : State) (f : Fault), s.Inv → Host.Core.run Sys2Proof.core k s ≠ .fault f

/-- spec/10_state.md R27: the three outputs, and that `fail` means every active byte is zero in every state a run reaches from a
state that keeps the invariant. -/
def Obligations.DerivedOutputsInEveryRun : Prop :=
  ∀ (k : Nat) (s t : State), s.Inv → Host.Core.run Sys2Proof.core k s = .next t →
    (busy t = true ↔ t.st ≠ .idle) ∧ (succeeded t = true ↔ t.vd = .ok) ∧
    (failed t = true ↔ t.vd = .sumErr ∨ t.vd = .tmo) ∧ (failed t = true → ∀ j < t.blen.toNat, readBuf t j = some 0)

/-- Every row of the table keeps the buffer's canonical form, in every state (notes/assumptions/3.md). -/
def Obligations.CanonicalBufferKept : Prop :=
  ∀ i (s t : State), s.buf.wf = true → exec i s = .next t → t.buf.wf = true

/-- spec/10_state.md R28, spec/30_encoding.md R63: no row changes the parameters or the event stream, and what a row does never
depends on the events behind it. -/
def Obligations.ConfigAndStreamUntouched : Prop :=
  (∀ i (s t : State), exec i s = .next t → t.cfg = s.cfg ∧ t.pending = s.pending) ∧
  ∀ i (s t : State) (ws : List EventWord), exec i s = .next t →
    exec i { s with pending := ws } = .next { t with pending := ws }

/-- spec/10_state.md R31, spec/43_system_ops.md R121 (a): what was emitted stays emitted, and among the events only the encoder's
emit. -/
def Obligations.OutputOnlyGrows : Prop :=
  ∀ i (s t : State), exec i s = .next t → ∃ bs, t.tx = s.tx ++ bs ∧
    (isEvent i = true → bs ≠ [] → (∃ c l, i = .encStart c l) ∨ ∃ b, i = .encData b)

/-- spec/10_state.md R26, spec/60_exceptions.md R164: a verdict is kept through every event but `RST` and an arming. -/
def Obligations.VerdictSticky : Prop :=
  ∀ i (s t : State), s.Inv → isEvent i = true → i ≠ .rst → (∀ n, i = .decArm n → n = 0) → s.vd ≠ .none →
    exec i s = .next t → t.vd = s.vd

/-- spec/20_memory.md R41: exactly these events change a byte of the buffer, and only these bytes of it. -/
def Obligations.BufferAccessors : Prop :=
  ∀ i (s t : State) (k : Nat), isEvent i = true → exec i s = .next t → readBuf t k ≠ readBuf s k →
    (∃ n, i = .decArm n ∧ k < n.toNat ∧ readBuf t k = some 0) ∨
    (∃ b, i = .rxByte b ∧ s.st = .payload ∧ payloadSlot s = some k ∧ readBuf t k = some b) ∨
    (∃ b, i = .rxByte b ∧ s.st = .checksum ∧ b ≠ s.sum ∧ k < s.blen.toNat ∧ readBuf t k = some 0) ∨
    (i = .rxTmo ∧ (s.st = .header ∨ s.st = .payload ∨ s.st = .checksum) ∧ k < s.blen.toNat ∧ readBuf t k = some 0)

/-- spec/10_state.md R20, column "written by": a register changes only through the events listed for it. -/
def Obligations.RegistersChangeOnlyByWriters : Prop :=
  ∀ i (s t : State), isEvent i = true → i ≠ .rst → exec i s = .next t →
    (t.sum ≠ s.sum → (∃ c l, i = .encStart c l) ∨ (∃ b, i = .encData b) ∨ (∃ n, i = .decArm n) ∨
      ∃ b, i = .rxByte b ∧ (s.st = .header ∨ s.st = .payload)) ∧
    (t.cnt ≠ s.cnt → (∃ n, i = .decArm n) ∨ ∃ b, i = .rxByte b ∧ (s.st = .header ∨ s.st = .payload)) ∧
    (t.rem ≠ s.rem → (∃ c l, i = .encStart c l) ∨ ∃ b, i = .encData b) ∧
    (t.off ≠ s.off → (∃ n, i = .decArm n) ∨ ∃ b, i = .rxByte b ∧ s.st = .payload) ∧
    (t.hpos ≠ s.hpos → (∃ n, i = .decArm n) ∨ ∃ b, i = .rxByte b ∧ s.st = .header) ∧
    (t.blen ≠ s.blen → ∃ n, i = .decArm n) ∧
    (t.vd ≠ s.vd → (∃ n, i = .decArm n) ∨ i = .rxTmo ∨ ∃ b, i = .rxByte b ∧ s.st = .checksum)

/-- spec/10_state.md R32: two idle blocks of one header length, whatever is left in them, do the same from `ENC.START` on, through
a whole request, and from `DEC.ARM n >= 1` on, through a whole response. -/
def Obligations.NoStateFromEarlierTransaction : Prop :=
  ∀ s₁ s₂ : State, s₁.st = .idle → s₂.st = .idle → s₁.cfg = s₂.cfg →
    (∀ c l t₁ t₂, exec (.encStart c l) s₁ = .next t₁ → exec (.encStart c l) s₂ = .next t₂ →
      t₁.sum = t₂.sum ∧ t₁.rem = t₂.rem ∧ t₁.st = t₂.st ∧ ∃ bs, t₁.tx = s₁.tx ++ bs ∧ t₂.tx = s₂.tx ++ bs) ∧
    (∀ c payload t₁ t₂, payload.length ≤ 255 →
      runScript (sendScript c payload) s₁ = .next t₁ → runScript (sendScript c payload) s₂ = .next t₂ →
      t₁.sum = t₂.sum ∧ t₁.rem = t₂.rem ∧ t₁.st = t₂.st ∧ ∃ bs, t₁.tx = s₁.tx ++ bs ∧ t₂.tx = s₂.tx ++ bs) ∧
    ∀ (n : Byte) (bytes : List Byte) (t₁ t₂ : State), 1 ≤ n.toNat →
      runScript (recvScript n bytes) s₁ = .next t₁ → runScript (recvScript n bytes) s₂ = .next t₂ →
      t₁.sum = t₂.sum ∧ t₁.cnt = t₂.cnt ∧ t₁.off = t₂.off ∧ t₁.hpos = t₂.hpos ∧ t₁.blen = t₂.blen ∧ t₁.st = t₂.st ∧
      t₁.vd = t₂.vd ∧ activeBytes t₁ = activeBytes t₂

/-- spec/44_host_transaction.md R134, spec/70_reset_and_hazards.md R197: a whole transaction from `IDLE` emits the request frame,
ends in `IDLE`, and leaves the closed form of the response, or, without a buffer, the earlier result. -/
def Obligations.TransactionEndsIdle : Prop :=
  ∀ (s : State) (stale : List Byte) (c : Byte) (payload : List Byte) (n : Byte) (bytes : List Byte),
    s.st = .idle → payload.length ≤ 255 →
    ∃ t, runScript (transactScript stale c payload n bytes) s = .next t ∧ t.st = .idle ∧
      t.tx = s.tx ++ requestBytes c payload ∧
      (n.toNat = 0 → t.vd = s.vd ∧ t.blen = s.blen ∧ ∀ k, readBuf t k = readBuf s k) ∧
      (1 ≤ n.toNat → t.blen = n ∧ t.vd = (decodeClosed s.cfg.hdrLen.toNat n.toNat bytes).1 ∧
        activeBytes t = (decodeClosed s.cfg.hdrLen.toNat n.toNat bytes).2.map some)

/-! ## Encodings -/

/-- spec/30_encoding.md R60, R61, R66, R67: decoding the encoding of a well-formed instruction gives it back, under its one
canonical spelling (notes/assumptions/7.md), for every operand; exactly the micro-operations have no encoding. -/
def Obligations.DecodeEncodeRoundTrip : Prop :=
  (∀ h i code, i.wf = true → i.fits h = true → encode i = some code → decode h code = .ok i.canonical) ∧
  ∀ i, encode i = none ↔ i = .accClr ∨ (∃ b, i = .accAdd b) ∨ ∃ b, i = .accEq b

/-- The canonical spelling means the same (notes/assumptions/7.md). -/
def Obligations.CanonicalSpellingSameMeaning : Prop :=
  ∀ i s, exec i.canonical s = exec i s

/-- spec/30_encoding.md R64: the fields of the event word, that an operation ignores the field it does not use, and that an
assembler writes zeros there. -/
def Obligations.UnusedFieldsIgnored : Prop :=
  (∀ (w : EventWord) (op a b : Nat), op < 16 → a < 256 → b < 256 → w.toNat = op * 65536 + a * 256 + b →
    (opField w).toNat = op ∧ (aField w).toNat = a ∧ (bField w).toNat = b) ∧
  (∀ w w' : EventWord, opField w = opField w' → (opField w).toNat < 8 →
    ((opField w).toNat ∈ [1, 2, 3, 4, 6] → aField w = aField w') →
    ((opField w).toNat = 1 → bField w = bField w') → decodeEvent w = decodeEvent w') ∧
  ∀ w : EventWord, (opField w).toNat < 8 → ∃ w', encode (decodeEvent w) = some (.event w') ∧ opField w' = opField w ∧
    aField w' = (if (opField w).toNat ∈ [1, 2, 3, 4, 6] then aField w else 0) ∧
    bField w' = (if (opField w).toNat = 1 then bField w else 0)

/-- Words of spec/95_test_vectors.md and spec/30_encoding.md R72, one for each operation. -/
def Obligations.EventWordsDecode : Prop :=
  decodeEvent 0x00000 = .rst ∧ decodeEvent 0x11301 = .encStart 0x13 0x01 ∧ decodeEvent 0x21900 = .encData 0x19 ∧
  decodeEvent 0x302FF = .decArm 0x02 ∧ decodeEvent 0x4AA77 = .rxByte 0xAA ∧ decodeEvent 0x51234 = .rxTmo ∧
  decodeEvent 0x60100 = .bufRd 0x01 ∧ decodeEvent 0x70000 = .statRd ∧ decodeEvent 0x80000 = .reserved 0x8 0x00 0x00 ∧
  decodeEvent 0xFFFFF = .reserved 0xF 0xFF 0xFF ∧
  decodeRequest [0xAA, 0x13, 0x01, 0x19, 0xD7] = .ok (.cmdSetVolume 0x19) ∧
  decodeRequest [0xAA, 0x07, 0x02, 0x01, 0x02, 0xB6] = .ok (.reqFrame 0x07 [0x01, 0x02]) ∧
  decodeResponse .three [0xAA, 0x01, 0x03, 0x01, 0x02, 0x03, 0xB4] = .ok (.rspFrame [0xAA, 0x01] [0x01, 0x02, 0x03] 0xB4) ∧
  decodeResponse .two [0x13, 0x01, 0x19, 0x2D] = .ok (.rspFrame [0x13] [0x19] 0x2D)
end

