-- ==== Sys2Proof/Laws/State.lean ====
section
/-!
SUPPORT. What each shared update of State does to each field, so that no proof unfolds a record update.
-/

namespace Sys2Proof.Machine

variable (s : State)

/-! ### writeBuf -/

@[simp] theorem writeBuf_sum (k : Nat) (v : Byte) : (writeBuf k v s).sum = s.sum := rfl
@[simp] theorem writeBuf_cnt (k : Nat) (v : Byte) : (writeBuf k v s).cnt = s.cnt := rfl
@[simp] theorem writeBuf_rem (k : Nat) (v : Byte) : (writeBuf k v s).rem = s.rem := rfl
@[simp] theorem writeBuf_off (k : Nat) (v : Byte) : (writeBuf k v s).off = s.off := rfl
@[simp] theorem writeBuf_hpos (k : Nat) (v : Byte) : (writeBuf k v s).hpos = s.hpos := rfl
@[simp] theorem writeBuf_blen (k : Nat) (v : Byte) : (writeBuf k v s).blen = s.blen := rfl
@[simp] theorem writeBuf_st (k : Nat) (v : Byte) : (writeBuf k v s).st = s.st := rfl
@[simp] theorem writeBuf_vd (k : Nat) (v : Byte) : (writeBuf k v s).vd = s.vd := rfl
@[simp] theorem writeBuf_buf (k : Nat) (v : Byte) : (writeBuf k v s).buf = s.buf.write k v := rfl
@[simp] theorem writeBuf_tx (k : Nat) (v : Byte) : (writeBuf k v s).tx = s.tx := rfl
@[simp] theorem writeBuf_answers (k : Nat) (v : Byte) : (writeBuf k v s).answers = s.answers := rfl
@[simp] theorem writeBuf_pending (k : Nat) (v : Byte) : (writeBuf k v s).pending = s.pending := rfl
@[simp] theorem writeBuf_cfg (k : Nat) (v : Byte) : (writeBuf k v s).cfg = s.cfg := rfl

/-! ### zeroBuf -/

@[simp] theorem zeroBuf_sum (n : Nat) : (zeroBuf n s).sum = s.sum := rfl
@[simp] theorem zeroBuf_cnt (n : Nat) : (zeroBuf n s).cnt = s.cnt := rfl
@[simp] theorem zeroBuf_rem (n : Nat) : (zeroBuf n s).rem = s.rem := rfl
@[simp] theorem zeroBuf_off (n : Nat) : (zeroBuf n s).off = s.off := rfl
@[simp] theorem zeroBuf_hpos (n : Nat) : (zeroBuf n s).hpos = s.hpos := rfl
@[simp] theorem zeroBuf_blen (n : Nat) : (zeroBuf n s).blen = s.blen := rfl
@[simp] theorem zeroBuf_st (n : Nat) : (zeroBuf n s).st = s.st := rfl
@[simp] theorem zeroBuf_vd (n : Nat) : (zeroBuf n s).vd = s.vd := rfl
@[simp] theorem zeroBuf_buf (n : Nat) : (zeroBuf n s).buf = s.buf.zero n := rfl
@[simp] theorem zeroBuf_tx (n : Nat) : (zeroBuf n s).tx = s.tx := rfl
@[simp] theorem zeroBuf_answers (n : Nat) : (zeroBuf n s).answers = s.answers := rfl
@[simp] theorem zeroBuf_pending (n : Nat) : (zeroBuf n s).pending = s.pending := rfl
@[simp] theorem zeroBuf_cfg (n : Nat) : (zeroBuf n s).cfg = s.cfg := rfl

/-! ### zeroFill -/

@[simp] theorem zeroFill_sum : (zeroFill s).sum = s.sum := rfl
@[simp] theorem zeroFill_cnt : (zeroFill s).cnt = s.cnt := rfl
@[simp] theorem zeroFill_rem : (zeroFill s).rem = s.rem := rfl
@[simp] theorem zeroFill_off : (zeroFill s).off = s.off := rfl
@[simp] theorem zeroFill_hpos : (zeroFill s).hpos = s.hpos := rfl
@[simp] theorem zeroFill_blen : (zeroFill s).blen = s.blen := rfl
@[simp] theorem zeroFill_st : (zeroFill s).st = s.st := rfl
@[simp] theorem zeroFill_vd : (zeroFill s).vd = s.vd := rfl
@[simp] theorem zeroFill_buf : (zeroFill s).buf = s.buf.zero (countOf s.blen) := rfl
@[simp] theorem zeroFill_tx : (zeroFill s).tx = s.tx := rfl
@[simp] theorem zeroFill_answers : (zeroFill s).answers = s.answers := rfl
@[simp] theorem zeroFill_pending : (zeroFill s).pending = s.pending := rfl
@[simp] theorem zeroFill_cfg : (zeroFill s).cfg = s.cfg := rfl

/-! ### accClr -/

@[simp] theorem accClr_sum : (accClr s).sum = 0 := rfl
@[simp] theorem accClr_cnt : (accClr s).cnt = s.cnt := rfl
@[simp] theorem accClr_rem : (accClr s).rem = s.rem := rfl
@[simp] theorem accClr_off : (accClr s).off = s.off := rfl
@[simp] theorem accClr_hpos : (accClr s).hpos = s.hpos := rfl
@[simp] theorem accClr_blen : (accClr s).blen = s.blen := rfl
@[simp] theorem accClr_st : (accClr s).st = s.st := rfl
@[simp] theorem accClr_vd : (accClr s).vd = s.vd := rfl
@[simp] theorem accClr_buf : (accClr s).buf = s.buf := rfl
@[simp] theorem accClr_tx : (accClr s).tx = s.tx := rfl
@[simp] theorem accClr_answers : (accClr s).answers = s.answers := rfl
@[simp] theorem accClr_pending : (accClr s).pending = s.pending := rfl
@[simp] theorem accClr_cfg : (accClr s).cfg = s.cfg := rfl

/-! ### accAdd -/

@[simp] theorem accAdd_sum (b : Byte) : (accAdd b s).sum = s.sum + b := rfl
@[simp] theorem accAdd_cnt (b : Byte) : (accAdd b s).cnt = s.cnt := rfl
@[simp] theorem accAdd_rem (b : Byte) : (accAdd b s).rem = s.rem := rfl
@[simp] theorem accAdd_off (b : Byte) : (accAdd b s).off = s.off := rfl
@[simp] theorem accAdd_hpos (b : Byte) : (accAdd b s).hpos = s.hpos := rfl
@[simp] theorem accAdd_blen (b : Byte) : (accAdd b s).blen = s.blen := rfl
@[simp] theorem accAdd_st (b : Byte) : (accAdd b s).st = s.st := rfl
@[simp] theorem accAdd_vd (b : Byte) : (accAdd b s).vd = s.vd := rfl
@[simp] theorem accAdd_buf (b : Byte) : (accAdd b s).buf = s.buf := rfl
@[simp] theorem accAdd_tx (b : Byte) : (accAdd b s).tx = s.tx := rfl
@[simp] theorem accAdd_answers (b : Byte) : (accAdd b s).answers = s.answers := rfl
@[simp] theorem accAdd_pending (b : Byte) : (accAdd b s).pending = s.pending := rfl
@[simp] theorem accAdd_cfg (b : Byte) : (accAdd b s).cfg = s.cfg := rfl

/-! ### emit -/

@[simp] theorem emit_sum (b : Byte) : (emit b s).sum = s.sum := rfl
@[simp] theorem emit_cnt (b : Byte) : (emit b s).cnt = s.cnt := rfl
@[simp] theorem emit_rem (b : Byte) : (emit b s).rem = s.rem := rfl
@[simp] theorem emit_off (b : Byte) : (emit b s).off = s.off := rfl
@[simp] theorem emit_hpos (b : Byte) : (emit b s).hpos = s.hpos := rfl
@[simp] theorem emit_blen (b : Byte) : (emit b s).blen = s.blen := rfl
@[simp] theorem emit_st (b : Byte) : (emit b s).st = s.st := rfl
@[simp] theorem emit_vd (b : Byte) : (emit b s).vd = s.vd := rfl
@[simp] theorem emit_buf (b : Byte) : (emit b s).buf = s.buf := rfl
@[simp] theorem emit_tx (b : Byte) : (emit b s).tx = s.tx ++ [b] := rfl
@[simp] theorem emit_answers (b : Byte) : (emit b s).answers = s.answers := rfl
@[simp] theorem emit_pending (b : Byte) : (emit b s).pending = s.pending := rfl
@[simp] theorem emit_cfg (b : Byte) : (emit b s).cfg = s.cfg := rfl

/-! ### emitSummed -/

@[simp] theorem emitSummed_sum (b : Byte) : (emitSummed b s).sum = s.sum + b := rfl
@[simp] theorem emitSummed_cnt (b : Byte) : (emitSummed b s).cnt = s.cnt := rfl
@[simp] theorem emitSummed_rem (b : Byte) : (emitSummed b s).rem = s.rem := rfl
@[simp] theorem emitSummed_off (b : Byte) : (emitSummed b s).off = s.off := rfl
@[simp] theorem emitSummed_hpos (b : Byte) : (emitSummed b s).hpos = s.hpos := rfl
@[simp] theorem emitSummed_blen (b : Byte) : (emitSummed b s).blen = s.blen := rfl
@[simp] theorem emitSummed_st (b : Byte) : (emitSummed b s).st = s.st := rfl
@[simp] theorem emitSummed_vd (b : Byte) : (emitSummed b s).vd = s.vd := rfl
@[simp] theorem emitSummed_buf (b : Byte) : (emitSummed b s).buf = s.buf := rfl
@[simp] theorem emitSummed_tx (b : Byte) : (emitSummed b s).tx = s.tx ++ [b] := rfl
@[simp] theorem emitSummed_answers (b : Byte) : (emitSummed b s).answers = s.answers := rfl
@[simp] theorem emitSummed_pending (b : Byte) : (emitSummed b s).pending = s.pending := rfl
@[simp] theorem emitSummed_cfg (b : Byte) : (emitSummed b s).cfg = s.cfg := rfl

/-! ### emitSum -/

@[simp] theorem emitSum_sum : (emitSum s).sum = s.sum := rfl
@[simp] theorem emitSum_cnt : (emitSum s).cnt = s.cnt := rfl
@[simp] theorem emitSum_rem : (emitSum s).rem = s.rem := rfl
@[simp] theorem emitSum_off : (emitSum s).off = s.off := rfl
@[simp] theorem emitSum_hpos : (emitSum s).hpos = s.hpos := rfl
@[simp] theorem emitSum_blen : (emitSum s).blen = s.blen := rfl
@[simp] theorem emitSum_st : (emitSum s).st = s.st := rfl
@[simp] theorem emitSum_vd : (emitSum s).vd = s.vd := rfl
@[simp] theorem emitSum_buf : (emitSum s).buf = s.buf := rfl
@[simp] theorem emitSum_tx : (emitSum s).tx = s.tx ++ [s.sum] := rfl
@[simp] theorem emitSum_answers : (emitSum s).answers = s.answers := rfl
@[simp] theorem emitSum_pending : (emitSum s).pending = s.pending := rfl
@[simp] theorem emitSum_cfg : (emitSum s).cfg = s.cfg := rfl

/-! ### answer -/

@[simp] theorem answer_sum (a : Answer) : (answer a s).sum = s.sum := rfl
@[simp] theorem answer_cnt (a : Answer) : (answer a s).cnt = s.cnt := rfl
@[simp] theorem answer_rem (a : Answer) : (answer a s).rem = s.rem := rfl
@[simp] theorem answer_off (a : Answer) : (answer a s).off = s.off := rfl
@[simp] theorem answer_hpos (a : Answer) : (answer a s).hpos = s.hpos := rfl
@[simp] theorem answer_blen (a : Answer) : (answer a s).blen = s.blen := rfl
@[simp] theorem answer_st (a : Answer) : (answer a s).st = s.st := rfl
@[simp] theorem answer_vd (a : Answer) : (answer a s).vd = s.vd := rfl
@[simp] theorem answer_buf (a : Answer) : (answer a s).buf = s.buf := rfl
@[simp] theorem answer_tx (a : Answer) : (answer a s).tx = s.tx := rfl
@[simp] theorem answer_answers (a : Answer) : (answer a s).answers = s.answers ++ [a] := rfl
@[simp] theorem answer_pending (a : Answer) : (answer a s).pending = s.pending := rfl
@[simp] theorem answer_cfg (a : Answer) : (answer a s).cfg = s.cfg := rfl

/-! ### goto -/

@[simp] theorem goto_sum (p : Phase) : (goto p s).sum = s.sum := rfl
@[simp] theorem goto_cnt (p : Phase) : (goto p s).cnt = s.cnt := rfl
@[simp] theorem goto_rem (p : Phase) : (goto p s).rem = s.rem := rfl
@[simp] theorem goto_off (p : Phase) : (goto p s).off = s.off := rfl
@[simp] theorem goto_hpos (p : Phase) : (goto p s).hpos = s.hpos := rfl
@[simp] theorem goto_blen (p : Phase) : (goto p s).blen = s.blen := rfl
@[simp] theorem goto_st (p : Phase) : (goto p s).st = p := rfl
@[simp] theorem goto_vd (p : Phase) : (goto p s).vd = s.vd := rfl
@[simp] theorem goto_buf (p : Phase) : (goto p s).buf = s.buf := rfl
@[simp] theorem goto_tx (p : Phase) : (goto p s).tx = s.tx := rfl
@[simp] theorem goto_answers (p : Phase) : (goto p s).answers = s.answers := rfl
@[simp] theorem goto_pending (p : Phase) : (goto p s).pending = s.pending := rfl
@[simp] theorem goto_cfg (p : Phase) : (goto p s).cfg = s.cfg := rfl

/-! ### setVerdict -/

@[simp] theorem setVerdict_sum (v : Verdict) : (setVerdict v s).sum = s.sum := rfl
@[simp] theorem setVerdict_cnt (v : Verdict) : (setVerdict v s).cnt = s.cnt := rfl
@[simp] theorem setVerdict_rem (v : Verdict) : (setVerdict v s).rem = s.rem := rfl
@[simp] theorem setVerdict_off (v : Verdict) : (setVerdict v s).off = s.off := rfl
@[simp] theorem setVerdict_hpos (v : Verdict) : (setVerdict v s).hpos = s.hpos := rfl
@[simp] theorem setVerdict_blen (v : Verdict) : (setVerdict v s).blen = s.blen := rfl
@[simp] theorem setVerdict_st (v : Verdict) : (setVerdict v s).st = s.st := rfl
@[simp] theorem setVerdict_vd (v : Verdict) : (setVerdict v s).vd = v := rfl
@[simp] theorem setVerdict_buf (v : Verdict) : (setVerdict v s).buf = s.buf := rfl
@[simp] theorem setVerdict_tx (v : Verdict) : (setVerdict v s).tx = s.tx := rfl
@[simp] theorem setVerdict_answers (v : Verdict) : (setVerdict v s).answers = s.answers := rfl
@[simp] theorem setVerdict_pending (v : Verdict) : (setVerdict v s).pending = s.pending := rfl
@[simp] theorem setVerdict_cfg (v : Verdict) : (setVerdict v s).cfg = s.cfg := rfl

/-! ### raise -/

@[simp] theorem raise_sum (f : Failure) : (raise f s).sum = s.sum := rfl
@[simp] theorem raise_cnt (f : Failure) : (raise f s).cnt = s.cnt := rfl
@[simp] theorem raise_rem (f : Failure) : (raise f s).rem = s.rem := rfl
@[simp] theorem raise_off (f : Failure) : (raise f s).off = s.off := rfl
@[simp] theorem raise_hpos (f : Failure) : (raise f s).hpos = s.hpos := rfl
@[simp] theorem raise_blen (f : Failure) : (raise f s).blen = s.blen := rfl
@[simp] theorem raise_st (f : Failure) : (raise f s).st = failurePhase f := rfl
@[simp] theorem raise_vd (f : Failure) : (raise f s).vd = failureVerdict f := rfl
@[simp] theorem raise_buf (f : Failure) : (raise f s).buf = s.buf.zero (countOf s.blen) := rfl
@[simp] theorem raise_tx (f : Failure) : (raise f s).tx = s.tx := rfl
@[simp] theorem raise_answers (f : Failure) : (raise f s).answers = s.answers := rfl
@[simp] theorem raise_pending (f : Failure) : (raise f s).pending = s.pending := rfl
@[simp] theorem raise_cfg (f : Failure) : (raise f s).cfg = s.cfg := rfl

/-! ### resetRegisters -/

@[simp] theorem resetRegisters_sum : (resetRegisters s).sum = 0 := rfl
@[simp] theorem resetRegisters_cnt : (resetRegisters s).cnt = 0 := rfl
@[simp] theorem resetRegisters_rem : (resetRegisters s).rem = 0 := rfl
@[simp] theorem resetRegisters_off : (resetRegisters s).off = 0 := rfl
@[simp] theorem resetRegisters_hpos : (resetRegisters s).hpos = 0 := rfl
@[simp] theorem resetRegisters_blen : (resetRegisters s).blen = 0 := rfl
@[simp] theorem resetRegisters_st : (resetRegisters s).st = .idle := rfl
@[simp] theorem resetRegisters_vd : (resetRegisters s).vd = .none := rfl
@[simp] theorem resetRegisters_buf : (resetRegisters s).buf = s.buf := rfl
@[simp] theorem resetRegisters_tx : (resetRegisters s).tx = s.tx := rfl
@[simp] theorem resetRegisters_answers : (resetRegisters s).answers = s.answers := rfl
@[simp] theorem resetRegisters_pending : (resetRegisters s).pending = s.pending := rfl
@[simp] theorem resetRegisters_cfg : (resetRegisters s).cfg = s.cfg := rfl

/-! ### deliverNext -/

@[simp] theorem deliverNext_sum (w : EventWord) : (deliverNext w s).sum = s.sum := rfl
@[simp] theorem deliverNext_cnt (w : EventWord) : (deliverNext w s).cnt = s.cnt := rfl
@[simp] theorem deliverNext_rem (w : EventWord) : (deliverNext w s).rem = s.rem := rfl
@[simp] theorem deliverNext_off (w : EventWord) : (deliverNext w s).off = s.off := rfl
@[simp] theorem deliverNext_hpos (w : EventWord) : (deliverNext w s).hpos = s.hpos := rfl
@[simp] theorem deliverNext_blen (w : EventWord) : (deliverNext w s).blen = s.blen := rfl
@[simp] theorem deliverNext_st (w : EventWord) : (deliverNext w s).st = s.st := rfl
@[simp] theorem deliverNext_vd (w : EventWord) : (deliverNext w s).vd = s.vd := rfl
@[simp] theorem deliverNext_buf (w : EventWord) : (deliverNext w s).buf = s.buf := rfl
@[simp] theorem deliverNext_tx (w : EventWord) : (deliverNext w s).tx = s.tx := rfl
@[simp] theorem deliverNext_answers (w : EventWord) : (deliverNext w s).answers = s.answers := rfl
@[simp] theorem deliverNext_pending (w : EventWord) : (deliverNext w s).pending = w :: s.pending := rfl
@[simp] theorem deliverNext_cfg (w : EventWord) : (deliverNext w s).cfg = s.cfg := rfl

/-! ### storePayload -/

/-- A payload byte changes the buffer alone. -/
theorem storePayload_eq (b : Byte) : storePayload b s = { s with buf := (storePayload b s).buf } := by
  unfold storePayload; split <;> rfl

@[simp] theorem storePayload_sum (b : Byte) : (storePayload b s).sum = s.sum := by rw [storePayload_eq]
@[simp] theorem storePayload_cnt (b : Byte) : (storePayload b s).cnt = s.cnt := by rw [storePayload_eq]
@[simp] theorem storePayload_rem (b : Byte) : (storePayload b s).rem = s.rem := by rw [storePayload_eq]
@[simp] theorem storePayload_off (b : Byte) : (storePayload b s).off = s.off := by rw [storePayload_eq]
@[simp] theorem storePayload_hpos (b : Byte) : (storePayload b s).hpos = s.hpos := by rw [storePayload_eq]
@[simp] theorem storePayload_blen (b : Byte) : (storePayload b s).blen = s.blen := by rw [storePayload_eq]
@[simp] theorem storePayload_st (b : Byte) : (storePayload b s).st = s.st := by rw [storePayload_eq]
@[simp] theorem storePayload_vd (b : Byte) : (storePayload b s).vd = s.vd := by rw [storePayload_eq]
@[simp] theorem storePayload_tx (b : Byte) : (storePayload b s).tx = s.tx := by rw [storePayload_eq]
@[simp] theorem storePayload_answers (b : Byte) : (storePayload b s).answers = s.answers := by rw [storePayload_eq]
@[simp] theorem storePayload_pending (b : Byte) : (storePayload b s).pending = s.pending := by rw [storePayload_eq]
@[simp] theorem storePayload_cfg (b : Byte) : (storePayload b s).cfg = s.cfg := by rw [storePayload_eq]

end Sys2Proof.Machine
end

