-- ==== Sys2Proof/Laws/Memory.lean ====
section
/-!
SUPPORT. The response buffer: a read after a write, and that every operation keeps the canonical form.
-/

namespace Sys2Proof.Machine

/-! ## Reads -/

@[simp] theorem Memory.read_nil (k : Nat) : Memory.read [] k = none := rfl

theorem Memory.read_cons (a k : Nat) (x : Byte) (m : Memory) :
    Memory.read ((a, x) :: m) k = if a = k then some x else m.read k := rfl

/-- A read after a write: the byte written at its offset, everything else as before. -/
theorem Memory.read_write (m : Memory) (k j : Nat) (v : Byte) :
    (Memory.write k v m).read j = if j = k then some v else m.read j := by
  induction m with
  | nil => simp [Memory.write, Memory.read_cons, eq_comm]
  | cons cell m ih =>
    obtain ⟨a, x⟩ := cell
    simp only [Memory.write]
    split
    · simp only [Memory.read_cons, eq_comm (a := k) (b := j)]
    · split
      · rename_i _ hka
        subst hka
        by_cases h : k = j
        · simp [Memory.read_cons, h]
        · simp [Memory.read_cons, h, Ne.symm h]
      · simp only [Memory.read_cons, ih]
        split <;> split <;> simp_all

/-- A read after zeroing the offsets below `n`. -/
theorem Memory.read_zero (m : Memory) (n j : Nat) :
    (Memory.zero n m).read j = if j < n then some 0 else m.read j := by
  induction n with
  | zero => simp [Memory.zero]
  | succ n ih =>
    simp only [Memory.zero, Memory.read_write, ih]
    by_cases h : j = n
    · simp [h]
    · have : j < n ↔ j < n + 1 := by omega
      simp [h, this]

theorem readBuf_writeBuf (s : State) (k j : Nat) (v : Byte) :
    readBuf (writeBuf k v s) j = if j = k then some v else readBuf s j :=
  Memory.read_write s.buf k j v

theorem readBuf_zeroBuf (s : State) (n j : Nat) :
    readBuf (zeroBuf n s) j = if j < n then some 0 else readBuf s j :=
  Memory.read_zero s.buf n j

theorem readBuf_zeroFill (s : State) (j : Nat) :
    readBuf (zeroFill s) j = if j < countOf s.blen then some 0 else readBuf s j :=
  readBuf_zeroBuf s _ j

theorem readBuf_storePayload (s : State) (b : Byte) (j : Nat) :
    readBuf (storePayload b s) j = if payloadSlot s = some j then some b else readBuf s j := by
  unfold storePayload
  split
  · rename_i k hk
    simp [hk, readBuf_writeBuf, eq_comm]
  · rename_i hk
    simp [hk]

/-- A read depends on the buffer alone. -/
theorem readBuf_congr {s t : State} (h : s.buf = t.buf) (k : Nat) : readBuf s k = readBuf t k := by
  simp [readBuf, h]

/-! ## The canonical form -/

theorem Memory.sortedFrom_write (m : Memory) (lo k : Nat) (v : Byte) (hlo : lo ≤ k) (hk : k < bufMax)
    (h : Memory.sortedFrom lo m = true) : Memory.sortedFrom lo (Memory.write k v m) = true := by
  induction m generalizing lo with
  | nil => simp [Memory.write, Memory.sortedFrom, hlo, hk]
  | cons cell m ih =>
    obtain ⟨a, x⟩ := cell
    simp only [Memory.sortedFrom, Bool.and_eq_true, decide_eq_true_eq] at h
    obtain ⟨⟨hla, ha⟩, hm⟩ := h
    simp only [Memory.write]
    split
    · rename_i hka
      simp only [Memory.sortedFrom, Bool.and_eq_true, decide_eq_true_eq]
      exact ⟨⟨hlo, hk⟩, ⟨hka, ha⟩, hm⟩
    · split
      · rename_i _ hka
        subst hka
        simp only [Memory.sortedFrom, Bool.and_eq_true, decide_eq_true_eq]
        exact ⟨⟨hlo, hk⟩, hm⟩
      · simp only [Memory.sortedFrom, Bool.and_eq_true, decide_eq_true_eq]
        exact ⟨⟨hla, ha⟩, ih (a + 1) (by omega) hm⟩

/-- Writing inside the buffer keeps the canonical form. -/
theorem Memory.wf_write (m : Memory) (k : Nat) (v : Byte) (hk : k < bufMax) (h : m.wf = true) :
    (Memory.write k v m).wf = true :=
  Memory.sortedFrom_write m 0 k v (Nat.zero_le k) hk h

/-- Zeroing inside the buffer keeps the canonical form. -/
theorem Memory.wf_zero (m : Memory) (n : Nat) (hn : n ≤ bufMax) (h : m.wf = true) : (Memory.zero n m).wf = true := by
  induction n with
  | zero => exact h
  | succ n ih => exact Memory.wf_write _ n 0 hn (ih (by omega))

theorem countOf_le (b : Byte) : countOf b ≤ bufMax := by
  have := b.isLt
  simp only [countOf, bufMax]
  omega

/-- The slot of a payload byte is inside the buffer, and active. -/
theorem payloadSlot_lt {s : State} {k : Nat} (h : payloadSlot s = some k) : k < countOf s.blen := by
  unfold payloadSlot at h
  split at h <;> simp_all

theorem zeroFill_wf (s : State) (h : s.buf.wf = true) : (zeroFill s).buf.wf = true :=
  Memory.wf_zero _ _ (countOf_le _) h

theorem zeroBuf_wf (s : State) (b : Byte) (h : s.buf.wf = true) : (zeroBuf (countOf b) s).buf.wf = true :=
  Memory.wf_zero _ _ (countOf_le _) h

theorem storePayload_wf (s : State) (b : Byte) (h : s.buf.wf = true) : (storePayload b s).buf.wf = true := by
  unfold storePayload
  split
  · rename_i k hk
    have := payloadSlot_lt hk
    have := countOf_le s.blen
    exact Memory.wf_write _ k b (by omega) h
  · exact h

theorem reset_buf_wf : State.reset.buf.wf = true := rfl

end Sys2Proof.Machine
end

