-- ==== Sys2Proof/Laws/Ops.lean ====
section
/-!
SUPPORT. One lemma for each shared operation of control: what it answers, and when.
-/

namespace Sys2Proof.Machine

/-- An admitted operation answers what its effect answers. -/
theorem admitIn_next {phases : List Phase} {s t : State} {effect : Outcome} :
    admitIn phases s effect = .next t ↔ s.st ∈ phases ∧ effect = .next t := by
  unfold admitIn
  split <;> simp_all

theorem admitIn_of_mem {phases : List Phase} {s : State} (effect : Outcome) (h : s.st ∈ phases) :
    admitIn phases s effect = effect := if_pos h

theorem admitIn_of_not_mem {phases : List Phase} {s : State} (effect : Outcome) (h : s.st ∉ phases) :
    admitIn phases s effect = .refused (.notAdmitted s.st) := if_neg h

/-- Two operations in order answer a next state when both do. -/
theorem andThen_next {o : Outcome} {f : State → Outcome} {t : State} :
    andThen o f = .next t ↔ ∃ u, o = .next u ∧ f u = .next t := by
  cases o <;> simp [andThen]

@[simp] theorem andThen_of_next (s : State) (f : State → Outcome) : andThen (.next s) f = f s := rfl

@[simp] theorem andThen_of_refused (r : Refusal) (f : State → Outcome) : andThen (.refused r) f = .refused r := rfl

@[simp] theorem andThen_of_fault (r : Fault) (f : State → Outcome) : andThen (.fault r) f = .fault r := rfl

theorem forBytes_nil (f : Byte → State → Outcome) (s : State) : forBytes f [] s = .next s := rfl

theorem forBytes_cons (f : Byte → State → Outcome) (b : Byte) (bs : List Byte) (s : State) :
    forBytes f (b :: bs) s = andThen (f b s) (forBytes f bs) := rfl

theorem forBytes_append (f : Byte → State → Outcome) (bs cs : List Byte) (s : State) :
    forBytes f (bs ++ cs) s = andThen (forBytes f bs s) (forBytes f cs) := by
  induction bs generalizing s with
  | nil => rfl
  | cons b bs ih =>
    simp only [List.cons_append, forBytes_cons]
    cases f b s <;> simp [ih]

/-- An invariant that every byte keeps is kept by all of them. -/
theorem forBytes_keeps {P : State → Prop} {f : Byte → State → Outcome}
    (step : ∀ b s t, P s → f b s = .next t → P t) (bs : List Byte) :
    ∀ s t, P s → forBytes f bs s = .next t → P t := by
  induction bs with
  | nil => intro s t hs h; cases h; exact hs
  | cons b bs ih =>
    intro s t hs h
    obtain ⟨u, hu, ht⟩ := andThen_next.mp h
    exact ih u t (step b s u hs hu) ht

/-- The oldest event is taken, and only the event stream changes. -/
theorem takeEvent_some {s s' : State} {w : EventWord} :
    takeEvent s = some (w, s') ↔ ∃ rest, s.pending = w :: rest ∧ s' = { s with pending := rest } := by
  unfold takeEvent
  split
  · simp_all
  · rename_i v rest h
    simp only [Option.some.injEq, Prod.mk.injEq, h, List.cons.injEq]
    constructor
    · rintro ⟨rfl, rfl⟩; exact ⟨rest, ⟨rfl, rfl⟩, rfl⟩
    · rintro ⟨rest', ⟨rfl, rfl⟩, rfl⟩; exact ⟨rfl, rfl⟩

/-- A frame with no byte owed is closed by its checksum byte. -/
theorem closeFrame_complete {s : State} (h : s.rem = 0) : closeFrameIfComplete s = goto .idle (emitSum s) := if_pos h

/-- A frame with bytes owed stays open. -/
theorem closeFrame_open {s : State} (h : s.rem ≠ 0) : closeFrameIfComplete s = goto .enc s := if_neg h

/-- A header byte before the length byte. -/
theorem receiveHeader_before {s : State} (b : Byte) (h : s.hpos ≠ lastHeaderPos s) :
    receiveHeader b s = { accAdd b s with hpos := s.hpos + 1 } := if_neg h

/-- The length byte. -/
theorem receiveHeader_last {s : State} (b : Byte) (h : s.hpos = lastHeaderPos s) :
    receiveHeader b s = captureLength b (accAdd b s) := if_pos h

/-- The last payload byte leads to the checksum. -/
theorem countPayload_last {s : State} (h : s.cnt - 1 = 0) :
    countPayload s = goto .checksum { s with off := s.off + 1, cnt := s.cnt - 1 } := if_pos h

/-- A payload byte with more to come. -/
theorem countPayload_more {s : State} (h : s.cnt - 1 ≠ 0) :
    countPayload s = { s with off := s.off + 1, cnt := s.cnt - 1 } := if_neg h

/-- The last header position, as a number. -/
theorem lastHeaderPos_toNat (s : State) : (lastHeaderPos s).toNat + 1 = s.cfg.hdrLen.toNat := by
  unfold lastHeaderPos
  cases s.cfg.hdrLen <;> rfl

/-- Every byte received in a phase other than `ENC` is taken, and leads to such a phase. -/
theorem execRxByte_next (b : Byte) (s : State) (h : s.st ≠ .enc) : ∃ t, execRxByte b s = .next t ∧ t.st ≠ .enc := by
  unfold execRxByte
  split
  · contradiction
  · refine ⟨_, rfl, ?_⟩
    unfold receiveHeader captureLength
    split
    · split <;> simp
    · simp_all
  · refine ⟨_, rfl, ?_⟩
    unfold receivePayload countPayload
    split <;> simp_all
  · refine ⟨_, rfl, ?_⟩
    unfold receiveChecksum
    split <;> simp [failurePhase]
  · exact ⟨s, rfl, h⟩
  · exact ⟨s, rfl, h⟩

end Sys2Proof.Machine
end

