-- ==== Sys2Proof/Laws/PerInstr.lean ====
section
/-!
SUPPORT. Statements about every instruction as syntax, one lemma for each constructor. The family `EventDecode`: an instruction
that some event word decodes to is well-formed and is an event (spec/30_encoding.md R66 to R68).
-/

namespace Sys2Proof.Laws.EventDecode

open Sys2Proof Sys2Proof.Machine

/-- Whatever an event word decodes to is a well-formed event. -/
def Statement (i : Instr) : Prop := ∀ w, decodeEvent w = i → i.wf = true ∧ isEvent i = true

/-- The reserved reading carries an op code of at least 8, and no word reads as anything but an event. -/
theorem decodeEvent_wf (w : EventWord) : (decodeEvent w).wf = true ∧ isEvent (decodeEvent w) = true := by
  unfold decodeEvent
  split <;> simp only [Instr.wf, isEvent, and_self, and_true, decide_eq_true_eq]
  simp only [imp_false] at *
  omega

theorem of_any (i : Instr) : Statement i := fun w h => h ▸ decodeEvent_wf w

theorem rst : Statement .rst := of_any _
theorem encStart (c l : Byte) : Statement (.encStart c l) := of_any _
theorem encData (b : Byte) : Statement (.encData b) := of_any _
theorem decArm (n : Byte) : Statement (.decArm n) := of_any _
theorem rxByte (b : Byte) : Statement (.rxByte b) := of_any _
theorem rxTmo : Statement .rxTmo := of_any _
theorem bufRd (k : Byte) : Statement (.bufRd k) := of_any _
theorem statRd : Statement .statRd := of_any _
theorem reserved (op : BitVec 4) (a b : Byte) : Statement (.reserved op a b) := of_any _
theorem accClr : Statement .accClr := of_any _
theorem accAdd (b : Byte) : Statement (.accAdd b) := of_any _
theorem accEq (b : Byte) : Statement (.accEq b) := of_any _
theorem reqFrame (c : Byte) (payload : List Byte) : Statement (.reqFrame c payload) := of_any _
theorem rspFrame (header payload : List Byte) (checksum : Byte) : Statement (.rspFrame header payload checksum) :=
  of_any _
theorem cmdSetVolume (v : Byte) : Statement (.cmdSetVolume v) := of_any _

end Sys2Proof.Laws.EventDecode
end

