-- ==== Sys2Proof/Laws/Script.lean ====
section
/-!
SUPPORT. Event sequences and the claims' own vocabulary: how a sequence splits, how the active bytes are read off, the counts
that the operations test.
-/

namespace Sys2Proof.Machine

/-! ## Counts -/

/-- A decremented byte is zero exactly when it was one. -/
theorem sub_one_eq_zero_iff (x : Byte) : x - 1 = 0 ↔ x.toNat = 1 := by
  constructor
  · intro h
    have : x = 1 := by bv_omega
    subst this; rfl
  · intro h; bv_omega

/-- Both header lengths lie between 2 and 3 (spec/00_scope.md R9). -/
theorem hdrLen_bounds (h : HdrLen) : 2 ≤ h.toNat ∧ h.toNat ≤ 3 := by cases h <;> decide

/-- The length byte of a payload that fits counts it. -/
theorem lengthByte_toNat {payload : List Byte} (h : payload.length ≤ 255) : (lengthByte payload).toNat = payload.length := by
  simp only [lengthByte, BitVec.toNat_ofNat]
  omega

theorem headerFits_iff {h : HdrLen} {header : List Byte} : headerFits h header = true ↔ header.length + 1 = h.toNat := by
  simp [headerFits]

/-! ## Event sequences -/

theorem runScript_nil (s : State) : runScript [] s = .next s := rfl

theorem runScript_cons (i : Instr) (is : List Instr) (s : State) :
    runScript (i :: is) s = andThen (exec i s) (runScript is) := rfl

theorem runScript_append (is js : List Instr) (s : State) :
    runScript (is ++ js) s = andThen (runScript is s) (runScript js) := by
  induction is generalizing s with
  | nil => rfl
  | cons i is ih =>
    simp only [List.cons_append, runScript_cons]
    cases exec i s <;> simp [ih]

/-- One operation for each byte, as a sequence of events. -/
theorem runScript_map (f : Byte → Instr) (bs : List Byte) (s : State) :
    runScript (bs.map f) s = forBytes (fun b => exec (f b)) bs s := by
  induction bs generalizing s with
  | nil => rfl
  | cons b bs ih =>
    simp only [List.map_cons, runScript_cons, forBytes_cons]
    cases exec (f b) s <;> simp [ih]

/-- `SEND` is the wire row's operation. -/
theorem runScript_sendScript (c : Byte) (payload : List Byte) (s : State) :
    runScript (sendScript c payload) s = sendFrame c payload s := by
  simp only [sendScript, runScript_cons, sendFrame]
  congr 1
  funext t
  rw [runScript_map]
  rfl

/-! ## The host's reading -/

/-- The host gets a byte exactly where `BUF.RD` hands it back. -/
theorem hostRead_eq_some {s : State} {k b : Byte} :
    hostRead s k = some b ↔ execBufRd k s = .next (answer (.byte b) s) := by
  unfold hostRead execBufRd admitIn readActive
  by_cases hs : s.st = .idle
  · by_cases hk : countOf k < countOf s.blen
    · cases readBuf s (countOf k) <;> simp [hs, hk, answer]
    · simp [hs, hk]
  · simp [hs]

/-! ## The active bytes -/

@[simp] theorem padded_length (n : Nat) (payload : List Byte) : (padded n payload).length = n := by simp [padded]

theorem padded_getElem? {n k : Nat} (payload : List Byte) (h : k < n) : (padded n payload)[k]? = some (payload.getD k 0) := by
  simp only [padded, List.getElem?_take, h, if_true]
  by_cases hk : k < payload.length
  · rw [List.getElem?_append_left hk]
    simp [List.getD, hk]
  · rw [List.getElem?_append_right (by omega), List.getElem?_replicate, if_pos (by omega),
      List.getD_eq_default _ _ (by omega)]

/-- The active bytes, from what each offset holds. -/
theorem activeBytes_eq {t : State} {n : Byte} {bs : List Byte} (h : t.blen = n) (hl : bs.length = n.toNat)
    (hr : ∀ k < n.toNat, readBuf t k = bs[k]?) : activeBytes t = bs.map some := by
  apply List.ext_getElem?
  intro k
  simp only [activeBytes, h, List.getElem?_map]
  by_cases hk : k < n.toNat
  · rw [List.getElem?_range hk, List.getElem?_eq_getElem (by omega)]
    simp [hr k hk, List.getElem?_eq_getElem (show k < bs.length by omega)]
  · rw [List.getElem?_eq_none (by simp; omega), List.getElem?_eq_none (by omega)]
    rfl

end Sys2Proof.Machine
end

