-- ==== Sys2Proof/Tests/Slice0.lean ====
section
/-!
SUPPORT. Tests: words written out bit by bit from spec/30_encoding.md, ill-formed terms, single steps with the values of
spec/95_test_vectors.md, and for each statement with hypotheses a witness that meets them.
-/

namespace Sys2Proof.Tests

open Sys2Proof Sys2Proof.Machine

/-! ## Well-formed terms (spec/30_encoding.md R60, R61, R68) -/

theorem test_wf_accepts : Instr.wf (.reserved 8 0 0) = true ∧ Instr.wf (.reqFrame 0x13 [0x19]) = true ∧
    Instr.wf (.rspFrame [0x13] [0x19] 0) = true ∧ Instr.wf (.rspFrame [0xAA, 0x01] [] 0) = true ∧
    Instr.wf (.bufRd 0xFF) = true := by decide

theorem test_wf_refuses_reserved_seven : Instr.wf (.reserved 7 0 0) = false := by decide

theorem test_wf_refuses_long_request : Instr.wf (.reqFrame 0 (List.replicate 256 0)) = false := by
  rw [Instr.wf, payloadFits, List.length_replicate]; rfl

theorem test_wf_refuses_long_response : Instr.wf (.rspFrame [0] (List.replicate 256 0) 0) = false := by
  rw [Instr.wf, payloadFits, List.length_replicate]; rfl

theorem test_wf_refuses_headers : Instr.wf (.rspFrame [] [] 0) = false ∧ Instr.wf (.rspFrame [1, 2, 3] [] 0) = false := by
  decide

theorem test_fits_refuses_other_header : Instr.fits .two (.rspFrame [0xAA, 0x01] [] 0) = false ∧
    Instr.fits .three (.rspFrame [0x13] [] 0) = false := by decide

/-! ## Decoding: `op`, then `a`, then `b`, written out (R64, R66, R68) -/

theorem test_decode_rst : decodeEvent 0b00000000000000000000 = .rst := by decide
theorem test_decode_rst_ignores : decodeEvent 0b00001111111111111111 = .rst := by decide
theorem test_decode_encStart : decodeEvent 0b00010001001100000001 = .encStart 0x13 0x01 := by decide
theorem test_decode_encData : decodeEvent 0b00100001100100000000 = .encData 0x19 := by decide
theorem test_decode_decArm : decodeEvent 0b00110000001011111111 = .decArm 0x02 := by decide
theorem test_decode_rxByte : decodeEvent 0b01001010101001110111 = .rxByte 0xAA := by decide
theorem test_decode_rxTmo : decodeEvent 0b01010001001000110100 = .rxTmo := by decide
theorem test_decode_bufRd : decodeEvent 0b01100000000100000000 = .bufRd 0x01 := by decide
theorem test_decode_statRd : decodeEvent 0b01110000000000000000 = .statRd := by decide
theorem test_decode_reserved_first : decodeEvent 0b10000000000000000000 = .reserved 0x8 0x00 0x00 := by decide
theorem test_decode_reserved_last : decodeEvent 0b11111111111111111111 = .reserved 0xF 0xFF 0xFF := by decide

/-- The micro-operations have no encoding (R67). -/
theorem test_encode_micro : encode .accClr = none ∧ encode (.accAdd 1) = none ∧ encode (.accEq 1) = none := by decide

/-- R72: the words of the two lines of the example. -/
theorem test_encode_events : encode (.encStart 0x13 1) = some (.event 0x11301) ∧
    encode (.encData 0x19) = some (.event 0x21900) := by decide

/-- S1 as corrected: `AA 13 01 19 D7`. -/
theorem test_decode_cmdSetVolume :
    decode .three (.request [0xAA, 0x13, 0x01, 0x19, 0xD7]) = .ok (.cmdSetVolume 0x19) := by rfl

/-- V9. -/
theorem test_decode_reqFrame :
    decode .two (.request [0xAA, 0x07, 0x02, 0x01, 0x02, 0xB6]) = .ok (.reqFrame 0x07 [0x01, 0x02]) := by rfl

/-- V16 and V27. -/
theorem test_decode_rspFrame :
    decode .three (.response [0xAA, 0x01, 0x03, 0x01, 0x02, 0x03, 0xB4]) =
      .ok (.rspFrame [0xAA, 0x01] [0x01, 0x02, 0x03] 0xB4) ∧
    decode .two (.response [0x13, 0x01, 0x19, 0x2D]) = .ok (.rspFrame [0x13] [0x19] 0x2D) := ⟨rfl, rfl⟩

/-- Bytes that are no request frame, by name; the checksum is the source's slip `C7` (spec/90_conflicts.md C2). -/
theorem test_decode_request_errors :
    decodeRequest [0xAA, 0x13] = .error .shortFrame ∧ decodeRequest [0xAB, 0x13, 0x00, 0xBE] = .error .badMarker ∧
    decodeRequest [0xAA, 0x13, 0x02, 0x19, 0xD7] = .error .badLength ∧
    decodeRequest [0xAA, 0x13, 0x01, 0x19, 0xC7] = .error .badChecksum := ⟨rfl, rfl, rfl, rfl⟩

/-- Bytes that are no response frame, by name. -/
theorem test_decode_response_errors :
    decodeResponse .three [0xAA, 0x01] = .error .shortFrame ∧
    decodeResponse .three [0xAA, 0x01, 0x02, 0x05, 0xB2] = .error .badLength := ⟨rfl, rfl⟩

/-- A table row's word, with the bits above it zero; a number of more than 20 bits is no event word. -/
theorem test_decodeTableWord : decodeTableWord 20 0x11301 = some (.encStart 0x13 0x01) ∧
    decodeTableWord 24 0x80000 = some (.reserved 8 0 0) ∧ decodeTableWord 24 0x100000 = none ∧
    decodeTableWord 0 0 = some .rst := by decide

/-! ## Small states -/

/-- Armed with three bytes, nothing received (V16, first line). -/
def armed : State := { State.reset with blen := 3, st := .header, buf := [(0, 0), (1, 0), (2, 0)] }

/-- In the payload with one byte stored and `left` to come, in a buffer of `n` bytes. -/
def inPayload (n left : Byte) : State :=
  { State.reset with
    sum := 0x37, cnt := left, off := 1, hpos := 2, blen := n, st := .payload, buf := [(0, 0x7F), (1, 0), (2, 0)] }

/-- V16 before its checksum byte. -/
def beforeSum : State :=
  { State.reset with sum := 0xB4, off := 3, hpos := 2, blen := 3, st := .checksum, buf := [(0, 1), (1, 2), (2, 3)] }

/-- V16 after its checksum byte. -/
def afterSum : State := { beforeSum with vd := .ok, st := .done }

/-- V16 at its end. -/
def ended : State := { afterSum with st := .idle }

/-- V31: two payload bytes owed. -/
def owing : State := { State.reset with sum := 0xBF, rem := 2, st := .enc, tx := [0xAA, 0x13, 0x02] }

/-- One payload byte owed (V7 after its first event). -/
def owingOne : State := { State.reset with sum := 0xBE, rem := 1, st := .enc, tx := [0xAA, 0x13, 0x01] }

/-- The response of two header bytes. -/
def armedTwo : State := { armed with cfg := { hdrLen := .two } }

/-! ## Single steps -/

/-- V31: what was emitted stays emitted. -/
theorem test_rst_in_enc : exec .rst owing = .next { State.reset with tx := [0xAA, 0x13, 0x02] } := rfl

/-- V30: the buffer keeps its byte, and cannot be read. -/
theorem test_rst_keeps_buffer :
    (nextState (exec .rst ended)).map (fun t => (readBuf t 0, t.blen)) = some (some 1, 0) := by decide

/-- V7, first event. -/
theorem test_encStart : exec (.encStart 0x13 1) State.reset = .next owingOne := rfl

/-- V12: a frame in one event, whose checksum byte is zero. -/
theorem test_encStart_empty :
    (nextState (exec (.encStart 0x56 0) State.reset)).map (fun t => (t.tx, t.sum, t.st)) =
      some ([0xAA, 0x56, 0x00, 0x00], 0x00, .idle) := by decide

/-- V7, second event. -/
theorem test_encData_last :
    (nextState (exec (.encData 0x19) owingOne)).map (fun t => (t.tx, t.sum, t.rem, t.st)) =
      some ([0xAA, 0x13, 0x01, 0x19, 0xD7], 0xD7, 0, .idle) := by decide

/-- V34. -/
theorem test_encData_refused : exec (.encData 5) State.reset = .refused (.notAdmitted .idle) := rfl

/-- S2, first line. -/
theorem test_decArm : exec (.decArm 3) State.reset = .next armed := rfl

/-- V28. -/
theorem test_decArm_zero : exec (.decArm 0) ended = .next ended := rfl

/-- V15: the byte at `off = blen` is summed and not stored; with room it is stored. -/
theorem test_rxByte_bounds :
    (nextState (exec (.rxByte 0x80) (inPayload 1 1))).map (fun t => (readBuf t 1, t.off, t.sum, t.st)) =
      some (some 0, 2, 0xB7, .checksum) ∧
    (nextState (exec (.rxByte 0x80) (inPayload 2 1))).map (fun t => (readBuf t 1, t.off)) = some (some 0x80, 2) := by
  decide

/-- V18b: a mismatch zeroes the buffer and keeps the sum. -/
theorem test_rxByte_mismatch :
    (nextState (exec (.rxByte 0xA4) beforeSum)).map (fun t => (t.vd, t.st, t.sum, t.buf)) =
      some (.sumErr, .done, 0xB4, [(0, 0), (1, 0), (2, 0)]) := by decide

/-- V24, last row. -/
theorem test_rxTmo_before_sum :
    (nextState (exec .rxTmo beforeSum)).map (fun t => (t.vd, t.st, t.sum, t.buf)) =
      some (.tmo, .idle, 0xB4, [(0, 0), (1, 0), (2, 0)]) := by decide

/-- V16, last line. -/
theorem test_rxTmo_in_done : exec .rxTmo afterSum = .next ended := rfl

/-- V32. -/
theorem test_bufRd :
    (nextState (exec (.bufRd 1) ended)).map State.answers = some [.byte 2] ∧
    exec (.bufRd 3) ended = .refused (.inactiveOffset 3) := ⟨rfl, rfl⟩

/-- V35. -/
theorem test_bufRd_refused : exec (.bufRd 0) State.reset = .refused (.inactiveOffset 0) := rfl

/-- V7: the packed word after the first event. -/
theorem test_statRd_enc : exec .statRd owingOne = .next { owingOne with answers := [.status 0x5F0000800004] } := rfl

/-- V16: the final word. -/
theorem test_statRd_ended : exec .statRd ended = .next { ended with answers := [.status 0x5A00000181C1] } := rfl

/-- V36. -/
theorem test_reserved : step (State.reset.withFetchWord 20 0x80000) = .refused (.reservedOp 8) ∧
    step (owing.withFetchWord 20 0xFFFFF) = .refused (.reservedOp 15) := ⟨rfl, rfl⟩

/-- V4b. -/
theorem test_accClr : (nextState (exec .accClr { State.reset with sum := 0xD7 })).map State.sum = some 0 := by decide

/-- V2, V3: the carry is lost. -/
theorem test_accAdd :
    (nextState (exec (.accAdd 0x01) { State.reset with sum := 0xFF })).map State.sum = some 0x00 ∧
    (nextState (exec (.accAdd 0xFF) { State.reset with sum := 0xFF })).map State.sum = some 0xFE := by decide

/-- V5. -/
theorem test_accEq :
    (nextState (exec (.accEq 0xB4) beforeSum)).map (fun t => (t.answers, t.sum)) = some ([.equal true], 0xB4) ∧
    (nextState (exec (.accEq 0xA4) beforeSum)).map (fun t => (t.answers, t.sum)) = some ([.equal false], 0xB4) := by decide

/-- V11: the marker value as command and data. -/
theorem test_reqFrame :
    (nextState (exec (.reqFrame 0xAA [0xAA]) State.reset)).map State.tx = some [0xAA, 0xAA, 0x01, 0xAA, 0xFF] := by decide

/-- V16, all bytes after arming. -/
theorem test_rspFrame :
    (nextState (exec (.rspFrame [0xAA, 0x01] [1, 2, 3] 0xB4) armed)) = some afterSum := by decide

/-- V27, for two header bytes. -/
theorem test_rspFrame_two :
    (nextState (exec (.rspFrame [0x13] [0x19] 0x2D) armedTwo)).map (fun t => (t.vd, readBuf t 0, t.hpos)) =
      some (.ok, some 0x19, 1) := by decide

/-- V12c. -/
theorem test_cmdSetVolume :
    (nextState (exec (.cmdSetVolume 0x1E) State.reset)).map State.tx = some [0xAA, 0x13, 0x01, 0x1E, 0xDC] := by decide

/-- A delivered event is the next one performed, and only it is consumed. -/
theorem test_step : step (({ State.reset with pending := [0x70000] } : State).withFetchWord 24 0x11301) =
    .next { owingOne with pending := [0x70000] } := rfl

/-- V6. -/
theorem test_sum8 : sum8 [] = 0x00 ∧ sum8 [0xAA, 0x13, 0x01, 0x19] = 0xD7 ∧ sum8 [0xAA, 0x01, 0x03, 0x02, 0x01, 0x03] = 0xB4 ∧
    sum8 [0xAA, 0xFF, 0x02, 0xFF, 0xFF] = 0xA9 ∧ sum8 [0xAA, 0x13, 0x01, 0x19, 0xD7] = 0xAE := by decide

/-- V22, V22b, V23: the closed form on the three length corruptions. -/
theorem test_decodeClosed :
    decodeClosed 3 3 [0xAA, 0x01, 0x01, 0x05, 0xB1, 0x00, 0x64] = (.ok, [0x05, 0x00, 0x00]) ∧
    decodeClosed 3 3 [0xAA, 0x01, 0x01, 0x01, 0x02, 0x03, 0xB4] = (.sumErr, [0, 0, 0]) ∧
    decodeClosed 3 3 [0xAA, 0x01, 0x07, 0x05, 0xB1, 0x00, 0x64] = (.tmo, [0, 0, 0]) := by decide

/-- spec/43_system_ops.md R123 on the bytes `01 02 03`. -/
theorem test_typed_readings : byteResult ended = some 1 ∧ wordResult ended = some 258 ∧ durationResult ended = some 3723 := by
  decide

/-- Where `BUF.RD` is refused: outside `IDLE`, and at the inactive offset 1, which still holds a byte. -/
theorem test_typed_readings_none : byteResult afterSum = none ∧ wordResult { ended with blen := 1 } = none ∧
    readBuf { ended with blen := 1 } 1 = some 2 := by decide

/-- S7: agreement at once on 1 and on 2, a retried pass, and a stopped reading trusted at once. -/
theorem test_consensus : consensus 3 [1, 1, 1] = some 1 ∧ consensus 3 [2, 2, 2] = some 2 ∧
    consensus 3 [1, 2, 1, 1, 1, 1] = some 1 ∧ consensus 3 [1, 0] = some 0 ∧ consensus 3 [1, 2, 1] = none := by decide

/-- S8: five attempts of nine polls. -/
theorem test_deviceReset : deviceReset (List.replicate 60 false) = (45, false) := by decide

/-- spec/44_host_transaction.md R132: elapsed time across a clock's wrap. -/
theorem test_deadline_wraps : deadlinePassed (0xFFFFFFF0 : BitVec 32) 0x00000006 firstByteWait = false ∧
    elapsed (0xFFFFFFF0 : BitVec 32) 0x00000006 = 22 := by decide

/-! ## Witnesses: states and operands that meet the hypotheses of the statements, clause by clause -/

theorem reset_inv : State.reset.Inv := by constructor <;> decide
theorem armed_inv : armed.Inv := by constructor <;> decide
theorem inPayload_inv : (inPayload 3 2).Inv := by constructor <;> decide
theorem beforeSum_inv : beforeSum.Inv := by constructor <;> decide
theorem afterSum_inv : afterSum.Inv := by constructor <;> decide
theorem ended_inv : ended.Inv := by constructor <;> decide
theorem owing_inv : owing.Inv := by constructor <;> decide
theorem owingOne_inv : owingOne.Inv := by constructor <;> decide

theorem witness_ResetModelFields : ∃ s : State, s.pending = [] ∧ s.st = .payload := ⟨inPayload 3 2, rfl, rfl⟩

/-- Offsets 2 and 3 meet at `blen = 3`. -/
theorem witness_BufRdEffect :
    (∃ s k b, s.st = .idle ∧ k.toNat < s.blen.toNat ∧ readBuf s k.toNat = some b ∧ k = (2 : Byte)) ∧
    (∃ s : State, ∃ k : Byte, s.st = .idle ∧ s.blen.toNat ≤ k.toNat ∧ k = 3) ∧
    (∃ s : State, s.st ≠ .idle) ∧
    (∃ s : State, ∃ k : Byte, s.Inv ∧ s.st = .idle ∧ k.toNat < s.blen.toNat) :=
  ⟨⟨ended, 2, 3, by decide⟩, ⟨ended, 3, by decide⟩, ⟨armed, by decide⟩, ⟨ended, 2, ended_inv, by decide⟩⟩

/-- Op codes 8 and 7 are the boundary. -/
theorem witness_ReservedRefused : (∃ w : EventWord, (opField w).toNat = 8) ∧ (∃ w : EventWord, (opField w).toNat = 15) ∧
    (∃ w : EventWord, (opField w).toNat = 7) := ⟨⟨0x80000, by decide⟩, ⟨0xFFFFF, by decide⟩, ⟨0x7FFFF, by decide⟩⟩

theorem witness_Sum8AfterAdditions :
    (∃ bs order : List Byte, order.Perm bs ∧ order ≠ bs) ∧
    ∃ (s : State) (n : Byte) (bytes : List Byte) (l : Byte) (t : State), s.st = .idle ∧ 1 ≤ n.toNat ∧
      bytes[s.cfg.hdrLen.toNat - 1]? = some l ∧ bytes.length = s.cfg.hdrLen.toNat + l.toNat ∧
      runScript (.decArm n :: bytes.map .rxByte) s = .next t :=
  ⟨⟨[1, 2], [2, 1], by decide, by decide⟩,
    ⟨State.reset, 1, [0xAA, 0x0A, 0x01, 0x7F], 1, _, rfl, by decide, rfl, rfl, rfl⟩⟩

theorem witness_Sum8Laws : (∃ as bs : List Byte, as.Perm bs ∧ as ≠ bs) ∧ (∃ x y : Byte, x ≠ y) ∧ (∃ j : Nat, j < 8 ∧ j = 7) ∧
    ∃ as bs : List Byte, as.length = bs.length ∧ sum8 bs = sum8 as ∧ as ≠ bs :=
  ⟨⟨[1, 2], [2, 1], by decide, by decide⟩, ⟨0, 1, by decide⟩, ⟨7, by decide⟩,
    ⟨[0x01, 0x02, 0x03], [0x02, 0x02, 0x02], by decide⟩⟩

theorem witness_EncStartEffect : (∃ s : State, s.st = .idle) ∧ ∃ s : State, s.st ≠ .idle :=
  ⟨⟨State.reset, rfl⟩, ⟨owing, by decide⟩⟩

/-- The last byte owed, and one before it. -/
theorem witness_EncDataEffect : (∃ s : State, s.st = .enc ∧ 1 ≤ s.rem.toNat ∧ s.rem = 1) ∧
    (∃ s : State, s.st = .enc ∧ 1 ≤ s.rem.toNat ∧ s.rem ≠ 1) ∧ ∃ s : State, s.st ≠ .enc :=
  ⟨⟨owingOne, by decide⟩, ⟨owing, by decide⟩, ⟨State.reset, by decide⟩⟩

theorem witness_EncoderFrame : (∃ t, exec (.encStart 0x13 1) ended = .next t) ∧ (∃ t, exec (.encData 0x19) owingOne = .next t) ∧
    (∃ t, exec (.reqFrame 7 [1, 2]) ended = .next t) ∧ ∃ t, exec (.cmdSetVolume 25) ended = .next t :=
  ⟨⟨_, rfl⟩, ⟨_, rfl⟩, ⟨_, rfl⟩, ⟨_, rfl⟩⟩

/-- The shortest and the longest payload. -/
theorem witness_RequestFrameEmitted : ended.st = .idle ∧ ([] : List Byte).length ≤ 255 ∧
    (List.replicate 255 (0 : Byte)).length ≤ 255 := ⟨rfl, by decide, by rw [List.length_replicate]⟩

theorem witness_RequestFrameRow : (∃ (s : State) (payload : List Byte), s.st = .idle ∧ payload.length ≤ 255) ∧
    ∃ s : State, s.st ≠ .idle := ⟨⟨ended, [1, 2], by decide⟩, ⟨owing, by decide⟩⟩

theorem witness_SetVolumeFrame : (∃ s : State, s.st = .idle) ∧ ∃ s : State, s.st ≠ .idle :=
  ⟨⟨ended, rfl⟩, ⟨beforeSum, by decide⟩⟩

/-- S5: the frame of V8 twice. -/
theorem witness_EncodeIgnoresState : (∃ t, runScript (sendScript 4 [] ++ sendScript 4 []) State.reset = .next t) ∧
    (∃ t, runScript (sendScript 4 []) ended = .next t) := ⟨⟨_, rfl⟩, ⟨_, rfl⟩⟩

theorem witness_OnlyDataOrResetLeavesEnc :
    (∃ t, isEvent .rst = true ∧ owing.st = .enc ∧ exec .rst owing = .next t ∧ t.st ≠ .enc) ∧
    (∃ t, isEvent (.encData 0) = true ∧ owingOne.st = .enc ∧ exec (.encData 0) owingOne = .next t ∧ t.st ≠ .enc) ∧
    ∃ (s : State) (payload : List Byte), s.st = .idle ∧ payload.length ≤ 255 :=
  ⟨⟨_, rfl, rfl, rfl, by decide⟩, ⟨_, rfl, rfl, rfl, by decide⟩, ⟨ended, [1], by decide⟩⟩

/-- The smallest and the largest buffer. -/
theorem witness_DecArmEffect : (∃ (s : State) (n : Byte), s.st = .idle ∧ 1 ≤ n.toNat ∧ n = 1) ∧
    (∃ (s : State) (n : Byte), s.st = .idle ∧ 1 ≤ n.toNat ∧ n = 255) ∧ ∃ s : State, s.st ≠ .idle :=
  ⟨⟨ended, 1, by decide⟩, ⟨ended, 255, by decide⟩, ⟨armed, by decide⟩⟩

theorem witness_DecArmZeroNoEffect : (∃ s : State, s.st = .idle ∧ s.vd = .ok) ∧ ∃ s : State, s.st ≠ .idle :=
  ⟨⟨ended, by decide⟩, ⟨armed, by decide⟩⟩

/-- The first position, and the last, for both header lengths. -/
theorem witness_RxByteInHeader : (armed.st = .header ∧ armed.hpos.toNat + 1 ≤ armed.cfg.hdrLen.toNat) ∧
    (∃ s : State, s.st = .header ∧ s.hpos.toNat + 1 = s.cfg.hdrLen.toNat ∧ s.cfg.hdrLen = .three) ∧
    ∃ s : State, s.st = .header ∧ s.hpos.toNat + 1 = s.cfg.hdrLen.toNat ∧ s.cfg.hdrLen = .two :=
  ⟨by decide, ⟨{ armed with hpos := 2 }, by decide⟩, ⟨{ armedTwo with hpos := 1 }, by decide⟩⟩

/-- `off = blen - 1` and `off = blen`, the last byte and one before it. -/
theorem witness_RxByteInPayload :
    (∃ s : State, s.st = .payload ∧ 1 ≤ s.cnt.toNat ∧ s.off.toNat ≤ 254 ∧ payloadSlot s = some 1 ∧ s.blen = 2) ∧
    (∃ s : State, s.st = .payload ∧ 1 ≤ s.cnt.toNat ∧ s.off.toNat ≤ 254 ∧ payloadSlot s = none ∧ s.off = s.blen) ∧
    (∃ s : State, s.st = .payload ∧ s.cnt = 1 ∧ s.off.toNat = 254) :=
  ⟨⟨inPayload 2 2, by decide⟩, ⟨inPayload 1 1, by decide⟩, ⟨{ inPayload 3 1 with off := 254 }, by decide⟩⟩

theorem witness_RxByteInChecksum : (∃ s : State, s.st = .checksum) ∧ ∃ (s : State) (b : Byte), s.st = .checksum ∧ b ≠ s.sum :=
  ⟨⟨beforeSum, rfl⟩, ⟨beforeSum, 0xA4, by decide⟩⟩

theorem witness_RxByteDropped : (∃ s : State, s.st = .done) ∧ ∃ s : State, s.st = .idle := ⟨⟨afterSum, rfl⟩, ⟨ended, rfl⟩⟩

theorem witness_RxTmoEffect : armed.st = .header ∧ (inPayload 3 2).st = .payload ∧ beforeSum.st = .checksum ∧
    afterSum.st = .done ∧ ended.st = .idle := by decide

theorem witness_ReceiveRefusedInEnc : ∃ s : State, s.st = .enc := ⟨owing, rfl⟩

theorem witness_DecoderFrame : (∃ t, exec (.decArm 2) ended = .next t) ∧ (∃ t, exec (.rxByte 0) (inPayload 3 2) = .next t) ∧
    (∃ t, exec .rxTmo beforeSum = .next t) ∧ ∃ t, exec (.rspFrame [0xAA, 0x01] [1, 2, 3] 0xB4) armed = .next t :=
  ⟨⟨_, rfl⟩, ⟨_, rfl⟩, ⟨_, rfl⟩, ⟨_, rfl⟩⟩

/-- The byte counts at which one clause gives way to the next, for `H = 3` and a length byte of 1. -/
theorem witness_DecoderStateFollowsBytes : (∃ (s : State) (n : Byte), s.st = .idle ∧ 1 ≤ n.toNat ∧ s.cfg.hdrLen = .three) ∧
    ([0xAA, 0x0A] : List Byte).length < 3 ∧ ([0xAA, 0x0A, 0x01] : List Byte)[3 - 1]? = some 1 ∧
    ([0xAA, 0x0A, 0x01] : List Byte).length < 3 + 1 ∧ ([0xAA, 0x0A, 0x01, 0x7F] : List Byte).length = 3 + 1 ∧
    3 + 1 < ([0xAA, 0x0A, 0x01, 0x7F, 0x34] : List Byte).length := ⟨⟨ended, 1, by decide⟩, by decide⟩

theorem witness_DecodeClosedForm : (∃ (s : State) (n : Byte), s.st = .idle ∧ 1 ≤ n.toNat ∧ s.cfg.hdrLen = .two) ∧
    ∃ (s : State) (n : Byte), s.st = .idle ∧ 1 ≤ n.toNat ∧ n = 255 :=
  ⟨⟨{ ended with cfg := { hdrLen := .two } }, 1, by decide⟩, ⟨ended, 255, by decide⟩⟩

theorem witness_AcceptanceCriterion : ∃ (s : State) (n : Byte) (bytes : List Byte) (t : State), s.st = .idle ∧ 1 ≤ n.toNat ∧
    runScript (recvScript n bytes) s = .next t ∧ t.vd = .ok :=
  ⟨State.reset, 1, [0xAA, 0x0A, 0x00, 0xB4], _, rfl, by decide, rfl, rfl⟩

theorem witness_RoundTripRecoversPayload :
    (∃ (s : State) (n : Byte) (payload : List Byte), s.st = .idle ∧ 1 ≤ n.toNat ∧ payload.length ≤ 255 ∧ s.cfg.hdrLen = .three) ∧
    ∃ (s : State) (n : Byte) (payload : List Byte), s.st = .idle ∧ 1 ≤ n.toNat ∧ payload.length ≤ 255 ∧ s.cfg.hdrLen = .two :=
  ⟨⟨ended, 1, [1, 2], by decide⟩, ⟨{ ended with cfg := { hdrLen := .two } }, 4, [], by decide⟩⟩

/-- The good frame of V22; a position other than the length's, a raised length and a lowered one. -/
theorem witness_OneByteCorruption :
    (∃ (s : State) (n : Byte) (frame : List Byte) (l : Byte), s.st = .idle ∧ 1 ≤ n.toNat ∧
      frame[s.cfg.hdrLen.toNat - 1]? = some l ∧ frame.length = s.cfg.hdrLen.toNat + l.toNat + 1 ∧
      frame[s.cfg.hdrLen.toNat + l.toNat]? = some (sum8 (frame.take (s.cfg.hdrLen.toNat + l.toNat))) ∧ l = 3) ∧
    (∃ x : Byte, ([0xAA, 0x01, 0x03, 0x05, 0xB1, 0x00, 0x64] : List Byte)[6]? = some 0x64 ∧ x ≠ 0x64) ∧
    (3 : Byte).toNat < (7 : Byte).toNat ∧ (1 : Byte).toNat < (3 : Byte).toNat :=
  ⟨⟨State.reset, 3, [0xAA, 0x01, 0x03, 0x05, 0xB1, 0x00, 0x64], 3, by decide⟩, ⟨0x65, by decide⟩, by decide, by decide⟩

/-- V17b and V24's second row. -/
theorem witness_FailedDecodeLeavesZeros :
    (∃ t, runScript (recvScript 1 [0xAA, 0x0A, 0x00, 0xB5]) State.reset = .next t ∧ t.vd = .sumErr) ∧
    ∃ t, runScript (recvScript 1 [0x00]) State.reset = .next t ∧ t.vd = .tmo := ⟨⟨_, rfl, rfl⟩, ⟨_, rfl, rfl⟩⟩

/-- One byte more than the buffer holds (V15). -/
theorem witness_DrainingAcceptsLongPayload : ∃ (s : State) (n : Byte) (header payload : List Byte), s.st = .idle ∧
    1 ≤ n.toNat ∧ headerFits s.cfg.hdrLen header = true ∧ payload.length ≤ 255 ∧ n.toNat < payload.length :=
  ⟨State.reset, 1, [0xAA, 0x0A], [0x7F, 0x80], by decide⟩

theorem witness_ResponseFrameReceived : ∃ (s : State) (header payload : List Byte), s.st = .header ∧ s.hpos = 0 ∧ s.off = 0 ∧
    headerFits s.cfg.hdrLen header = true ∧ payload.length ≤ 255 :=
  ⟨armed, [0xAA, 0x01], [1, 2, 3], by decide⟩

theorem witness_ResponseFrameElsewhere : ended.st = .idle ∧ afterSum.st = .done ∧ owing.st = .enc := by decide

/-- V24, the first two rows. -/
theorem witness_TimeoutCasesToldApart :
    (∃ t, runScript (recvScript 3 []) State.reset = .next t ∧ t.vd = .tmo ∧ t.hpos = 0) ∧
    ∃ t, runScript (recvScript 3 [0x00]) State.reset = .next t ∧ t.vd = .tmo ∧ t.hpos = 1 :=
  ⟨⟨_, rfl, rfl, rfl⟩, ⟨_, rfl, rfl, rfl⟩⟩

theorem witness_StepRunsDecodedEvent : ∃ (s : State) (w : EventWord) (rest : List EventWord), s.pending = w :: rest :=
  ⟨{ ended with pending := [0x60100, 0x70000] }, 0x60100, [0x70000], rfl⟩

theorem witness_RunFollowsScript : ∃ (ws rest : List EventWord) (s t : State), rest ≠ [] ∧
    runScript (ws.map decodeEvent) { s with pending := rest } = .next t :=
  ⟨[0x11301, 0x21900], [0x70000], State.reset, _, by decide, rfl⟩

theorem witness_TransitionTable : (∃ i s, isEvent i = true ∧ s.Inv ∧ transitionCell i s = []) ∧
    ∃ i s, isEvent i = true ∧ s.Inv ∧ transitionCell i s = [.header, .payload, .checksum] :=
  ⟨⟨.rxTmo, owing, rfl, owing_inv, rfl⟩, ⟨.rxByte 0, armed, rfl, armed_inv, rfl⟩⟩

/-- An empty cell and one that is not, at `k = blen` and one below. -/
theorem witness_RefusedExactly : ended.Inv ∧ transitionCell (decodeEvent 0x60300) ended = [] ∧
    transitionCell (decodeEvent 0x60200) ended = [.idle] := ⟨ended_inv, rfl, rfl⟩

theorem witness_CompletesExactlyWhereAdmitted : (∃ i s, s.Inv ∧ admitted i s = true) ∧ ∃ i s, s.Inv ∧ admitted i s = false :=
  ⟨⟨.bufRd 2, ended, ended_inv, rfl⟩, ⟨.bufRd 3, ended, ended_inv, rfl⟩⟩

theorem witness_StepKeepsInvariant : ∃ s t : State, s.Inv ∧ step s = .next t :=
  ⟨({ State.reset with pending := [0x303FF] } : State), _,
    by constructor <;> decide, rfl⟩

theorem witness_NoRunFaults : ∃ s : State, s.Inv ∧ s.st = .checksum := ⟨beforeSum, beforeSum_inv, rfl⟩

/-- A run of one event that ends in a failure. -/
theorem witness_DerivedOutputsInEveryRun : ∃ (s t : State), s.Inv ∧ Host.Core.run Sys2Proof.core 1 s = .next t ∧ failed t = true :=
  ⟨{ beforeSum with pending := [0x50000] }, _,
    by constructor <;> decide, rfl, rfl⟩

theorem witness_CanonicalBufferKept : ∃ i, ∃ s t : State, s.buf.wf = true ∧ s.buf ≠ [] ∧ exec i s = .next t :=
  ⟨.rxByte 5, inPayload 3 2, _, by decide, by decide, rfl⟩

theorem witness_ConfigAndStreamUntouched : ∃ i, ∃ s t : State, exec i s = .next t := ⟨.rxTmo, beforeSum, _, rfl⟩

theorem witness_OutputOnlyGrows : ∃ i, ∃ s t : State, ∃ bs, exec i s = .next t ∧ t.tx = s.tx ++ bs ∧ isEvent i = true ∧ bs ≠ [] :=
  ⟨.encData 0x19, owingOne, _, [0x19, 0xD7], rfl, rfl, rfl, by decide⟩

theorem witness_VerdictSticky :
    (∃ t, ended.Inv ∧ ended.vd ≠ .none ∧ exec (.decArm 0) ended = .next t) ∧
    ∃ t, afterSum.Inv ∧ afterSum.vd ≠ .none ∧ exec .rxTmo afterSum = .next t :=
  ⟨⟨_, ended_inv, by decide, rfl⟩, ⟨_, afterSum_inv, by decide, rfl⟩⟩

/-- Each of the four ways a byte of the buffer changes. -/
theorem witness_BufferAccessors :
    (∃ t, exec (.decArm 3) ended = .next t ∧ readBuf t 2 ≠ readBuf ended 2) ∧
    (∃ t, exec (.rxByte 9) (inPayload 2 2) = .next t ∧ readBuf t 1 ≠ readBuf (inPayload 2 2) 1) ∧
    (∃ t, exec (.rxByte 0) beforeSum = .next t ∧ readBuf t 2 ≠ readBuf beforeSum 2) ∧
    ∃ t, exec .rxTmo beforeSum = .next t ∧ readBuf t 0 ≠ readBuf beforeSum 0 :=
  ⟨⟨_, rfl, by decide⟩, ⟨_, rfl, by decide⟩, ⟨_, rfl, by decide⟩, ⟨_, rfl, by decide⟩⟩

theorem witness_RegistersChangeOnlyByWriters :
    (∃ t, exec (.rxByte 9) (inPayload 3 2) = .next t ∧ t.sum ≠ (inPayload 3 2).sum ∧ t.cnt ≠ (inPayload 3 2).cnt ∧
      t.off ≠ (inPayload 3 2).off) ∧
    (∃ t, exec (.encData 9) owing = .next t ∧ t.rem ≠ owing.rem) ∧
    (∃ t, exec (.rxByte 9) armed = .next t ∧ t.hpos ≠ armed.hpos) ∧
    (∃ t, exec (.decArm 1) ended = .next t ∧ t.blen ≠ ended.blen) ∧
    ∃ t, exec .rxTmo beforeSum = .next t ∧ t.vd ≠ beforeSum.vd :=
  ⟨⟨_, rfl, by decide⟩, ⟨_, rfl, by decide⟩, ⟨_, rfl, by decide⟩, ⟨_, rfl, by decide⟩, ⟨_, rfl, by decide⟩⟩

theorem witness_NoStateFromEarlierTransaction : ∃ s₁ s₂ t₁ t₂ u₁ u₂ : State, s₁.st = .idle ∧ s₂.st = .idle ∧
    s₁.cfg = s₂.cfg ∧ s₁ ≠ s₂ ∧ runScript (sendScript 7 [1]) s₁ = .next t₁ ∧ runScript (sendScript 7 [1]) s₂ = .next t₂ ∧
    runScript (recvScript 1 [0xAA]) s₁ = .next u₁ ∧ runScript (recvScript 1 [0xAA]) s₂ = .next u₂ :=
  ⟨State.reset, ended, _, _, _, _, rfl, rfl, rfl, by decide, rfl, rfl, rfl, rfl⟩

/-- Without a buffer, and with the smallest. -/
theorem witness_TransactionEndsIdle : (∃ (s : State) (payload : List Byte) (n : Byte), s.st = .idle ∧ payload.length ≤ 255 ∧
      n.toNat = 0) ∧ ∃ (s : State) (payload : List Byte) (n : Byte), s.st = .idle ∧ payload.length ≤ 255 ∧ n.toNat = 1 :=
  ⟨⟨ended, [0x19], 0, by decide⟩, ⟨ended, [], 1, by decide⟩⟩

/-- The three kinds of code, and both header lengths. -/
theorem witness_DecodeEncodeRoundTrip :
    (∃ h i code, Instr.wf i = true ∧ Instr.fits h i = true ∧ encode i = some (.event code)) ∧
    (∃ h i code, Instr.wf i = true ∧ Instr.fits h i = true ∧ encode i = some (.request code)) ∧
    (∃ i code, Instr.wf i = true ∧ Instr.fits .two i = true ∧ encode i = some (.response code)) ∧
    ∃ i code, Instr.wf i = true ∧ Instr.fits .three i = true ∧ encode i = some (.response code) :=
  ⟨⟨.three, .reserved 8 1 2, _, rfl, rfl, rfl⟩, ⟨.three, .reqFrame 0x13 [0x19], _, rfl, rfl, rfl⟩,
    ⟨.rspFrame [0x13] [0x19] 0, _, rfl, rfl, rfl⟩, ⟨.rspFrame [0xAA, 0x01] [] 0, _, rfl, rfl, rfl⟩⟩

theorem witness_UnusedFieldsIgnored :
    (∃ (w : EventWord) (op a b : Nat), op < 16 ∧ a < 256 ∧ b < 256 ∧ w.toNat = op * 65536 + a * 256 + b ∧ op = 15 ∧ a = 255) ∧
    (∃ w w' : EventWord, w ≠ w' ∧ opField w = opField w' ∧ (opField w).toNat < 8 ∧
      ((opField w).toNat ∈ [1, 2, 3, 4, 6] → aField w = aField w') ∧ ((opField w).toNat = 1 → bField w = bField w')) ∧
    ∃ w : EventWord, (opField w).toNat < 8 ∧ bField w ≠ 0 :=
  ⟨⟨0xFFF00, 15, 255, 0, by decide⟩, ⟨0x51234, 0x50000, by decide⟩, ⟨0x302FF, by decide⟩⟩

end Sys2Proof.Tests
end

section
/-!
SUPPORT. What each operation of the codec can do, said once: `Completes`, one constructor for each way an event or a
micro-operation answers a next state, and how a property of these carries over to the wire rows.
-/

namespace Sys2Proof.Machine

/-! ## The phases after the header -/

/-- The phase after the header, by the number of payload bytes still to come (spec/10_state.md R24). -/
def bodyPhase (left : Nat) : Phase := if left = 0 then .checksum else .payload

theorem bodyPhase_of_pos {left : Nat} (h : 1 ≤ left) : bodyPhase left = .payload := if_neg (by omega)

/-- The test of `captureLength` and `countPayload`, on the byte itself. -/
theorem bodyPhase_toNat (b : Byte) : bodyPhase b.toNat = if b = 0 then .checksum else .payload := by
  simp only [bodyPhase, BitVec.toNat_eq]
  rfl

section
variable (left : Nat)

@[simp] theorem bodyPhase_eq_checksum : bodyPhase left = .checksum ↔ left = 0 := by simp [bodyPhase]
@[simp] theorem bodyPhase_eq_payload : bodyPhase left = .payload ↔ 1 ≤ left := by simp [bodyPhase]; omega
@[simp] theorem bodyPhase_ne_idle : bodyPhase left ≠ .idle := by unfold bodyPhase; split <;> simp
@[simp] theorem bodyPhase_ne_enc : bodyPhase left ≠ .enc := by unfold bodyPhase; split <;> simp
@[simp] theorem bodyPhase_ne_header : bodyPhase left ≠ .header := by unfold bodyPhase; split <;> simp
@[simp] theorem bodyPhase_ne_done : bodyPhase left ≠ .done := by unfold bodyPhase; split <;> simp

end

/-! ## One byte received, by phase -/

/-- What a payload byte stores depends on the buffer, `off` and `blen` alone. -/
theorem storePayload_buf_congr {s u : State} (b : Byte) (hoff : u.off = s.off) (hblen : u.blen = s.blen)
    (hbuf : u.buf = s.buf) : (storePayload b u).buf = (storePayload b s).buf := by
  have hslot : payloadSlot u = payloadSlot s := by rw [payloadSlot, payloadSlot, hoff, hblen]
  unfold storePayload
  rw [hslot]
  cases payloadSlot s <;> simp [hbuf]

/-- The length byte (R103). -/
theorem receiveHeader_length {s : State} (b : Byte) (hp : s.hpos = lastHeaderPos s) :
    receiveHeader b s = { s with sum := s.sum + b, cnt := b, st := bodyPhase b.toNat } := by
  rw [receiveHeader_last b hp, captureLength, bodyPhase_toNat]
  rfl

/-- A payload byte (R104). -/
theorem receivePayload_eq {s : State} (b : Byte) (hs : s.st = .payload) :
    receivePayload b s = { s with sum := s.sum + b, cnt := s.cnt - 1, off := s.off + 1,
                                  st := bodyPhase (s.cnt - 1).toNat, buf := (storePayload b s).buf } := by
  have hbuf : (storePayload b (accAdd b s)).buf = (storePayload b s).buf := storePayload_buf_congr b rfl rfl rfl
  by_cases hc : s.cnt - 1 = 0
  · rw [receivePayload, countPayload_last (by simpa using hc), bodyPhase_toNat, if_pos hc]
    simp [goto, hbuf]
  · rw [receivePayload, countPayload_more (by simpa using hc), bodyPhase_toNat, if_neg hc]
    simp [hbuf, hs]

/-! ## Every way an operation completes -/

/-- `Completes i s t`: performed in `s`, the event or micro-operation `i` answers the next state `t`. One constructor for
each case of spec/40_checksum_accumulator.md to spec/43_system_ops.md; tied to the model by `exec_completes` and
`Completes.exec_eq`. -/
inductive Completes : Instr → State → State → Prop
  | rst (s : State) : Completes .rst s (resetRegisters s)
  | emptyFrame {s : State} (c : Byte) : s.st = .idle →
      Completes (.encStart c 0) s (goto .idle (emitSum { emitHeader c 0 s with rem := 0 }))
  | openFrame {s : State} (c : Byte) {l : Byte} : s.st = .idle → l ≠ 0 →
      Completes (.encStart c l) s (goto .enc { emitHeader c l s with rem := l })
  | lastData {s : State} (b : Byte) : s.st = .enc → s.rem - 1 = 0 →
      Completes (.encData b) s (goto .idle (emitSum { emitSummed b s with rem := s.rem - 1 }))
  | moreData {s : State} (b : Byte) : s.st = .enc → s.rem - 1 ≠ 0 →
      Completes (.encData b) s (goto .enc { emitSummed b s with rem := s.rem - 1 })
  | armZero {s : State} : s.st = .idle → Completes (.decArm 0) s s
  | arm {s : State} {n : Byte} : s.st = .idle → n ≠ 0 → Completes (.decArm n) s (arm n s)
  | headerByte {s : State} (b : Byte) : s.st = .header → s.hpos ≠ lastHeaderPos s →
      Completes (.rxByte b) s { s with sum := s.sum + b, hpos := s.hpos + 1 }
  | lengthByte {s : State} (b : Byte) : s.st = .header → s.hpos = lastHeaderPos s →
      Completes (.rxByte b) s { s with sum := s.sum + b, cnt := b, st := bodyPhase b.toNat }
  | payloadByte {s : State} (b : Byte) : s.st = .payload →
      Completes (.rxByte b) s
        { s with sum := s.sum + b, cnt := s.cnt - 1, off := s.off + 1, st := bodyPhase (s.cnt - 1).toNat,
                 buf := (storePayload b s).buf }
  | sumMatches {s : State} : s.st = .checksum → Completes (.rxByte s.sum) s (goto .done (setVerdict .ok s))
  | sumDiffers {s : State} {b : Byte} : s.st = .checksum → b ≠ s.sum →
      Completes (.rxByte b) s (raise .checksumMismatch s)
  | dropped {s : State} (b : Byte) : s.st = .idle ∨ s.st = .done → Completes (.rxByte b) s s
  | timeout {s : State} : s.st = .header ∨ s.st = .payload ∨ s.st = .checksum →
      Completes .rxTmo s (raise .timeout s)
  | finish {s : State} : s.st = .done → Completes .rxTmo s (goto .idle s)
  | timeoutIdle {s : State} : s.st = .idle → Completes .rxTmo s s
  | read {s : State} {k x : Byte} : s.st = .idle → k.toNat < s.blen.toNat → readBuf s k.toNat = some x →
      Completes (.bufRd k) s (answer (.byte x) s)
  | status (s : State) : Completes .statRd s (answer (.status (statusWord s)) s)
  | clear (s : State) : Completes .accClr s (accClr s)
  | add (s : State) (b : Byte) : Completes (.accAdd b) s (accAdd b s)
  | compare (s : State) (b : Byte) : Completes (.accEq b) s (answer (.equal (accEq b s)) s)

/-- The three rows of the table that are wire formats, performed as events in order (spec/30_encoding.md R60, R61, R67). -/
def isWireRow : Instr → Bool
  | .reqFrame _ _ | .rspFrame _ _ _ | .cmdSetVolume _ => true
  | .rst | .encStart _ _ | .encData _ | .decArm _ | .rxByte _ | .rxTmo | .bufRd _ | .statRd | .reserved _ _ _ => false
  | .accClr | .accAdd _ | .accEq _ => false

theorem isWireRow_of_isEvent {i : Instr} (h : isEvent i = true) : isWireRow i = false := by
  cases i <;> simp_all [isEvent, isWireRow]

/-! ### Arming, field by field -/

section
variable (n : Byte) (s : State)

@[simp] theorem arm_sum : (arm n s).sum = 0 := rfl
@[simp] theorem arm_cnt : (arm n s).cnt = 0 := rfl
@[simp] theorem arm_rem : (arm n s).rem = s.rem := rfl
@[simp] theorem arm_off : (arm n s).off = 0 := rfl
@[simp] theorem arm_hpos : (arm n s).hpos = 0 := rfl
@[simp] theorem arm_blen : (arm n s).blen = n := rfl
@[simp] theorem arm_st : (arm n s).st = .header := rfl
@[simp] theorem arm_vd : (arm n s).vd = .none := rfl
@[simp] theorem arm_tx : (arm n s).tx = s.tx := rfl
@[simp] theorem arm_answers : (arm n s).answers = s.answers := rfl
@[simp] theorem arm_pending : (arm n s).pending = s.pending := rfl
@[simp] theorem arm_cfg : (arm n s).cfg = s.cfg := rfl

end

/-! ### Each operation's completions -/

theorem admitIn_one_next {p : Phase} {s t : State} {effect : Outcome} :
    admitIn [p] s effect = .next t ↔ s.st = p ∧ effect = .next t := by
  simp [admitIn_next]

theorem execEncStart_completes {c l : Byte} {s t : State} (h : execEncStart c l s = .next t) :
    Completes (.encStart c l) s t := by
  obtain ⟨hs, rfl⟩ : s.st = .idle ∧ closeFrameIfComplete { emitHeader c l s with rem := l } = t := by
    simpa [execEncStart, admitIn_one_next] using h
  by_cases hl : l = 0
  · subst hl
    rw [closeFrame_complete rfl]
    exact .emptyFrame c hs
  · rw [closeFrame_open hl]
    exact .openFrame c hs hl

theorem execEncData_completes {b : Byte} {s t : State} (h : execEncData b s = .next t) :
    Completes (.encData b) s t := by
  obtain ⟨hs, rfl⟩ : s.st = .enc ∧ closeFrameIfComplete { emitSummed b s with rem := s.rem - 1 } = t := by
    simpa [execEncData, admitIn_one_next] using h
  by_cases hr : s.rem - 1 = 0
  · rw [closeFrame_complete hr]
    exact .lastData b hs hr
  · rw [closeFrame_open hr]
    exact .moreData b hs hr

theorem execDecArm_completes {n : Byte} {s t : State} (h : execDecArm n s = .next t) : Completes (.decArm n) s t := by
  obtain ⟨hs, rfl⟩ : s.st = .idle ∧ (if n = 0 then s else arm n s) = t := by
    simpa [execDecArm, admitIn_one_next] using h
  by_cases hn : n = 0
  · subst hn
    exact .armZero hs
  · rw [if_neg hn]
    exact .arm hs hn

theorem receiveHeader_completes (b : Byte) {s : State} (hs : s.st = .header) :
    Completes (.rxByte b) s (receiveHeader b s) := by
  by_cases hp : s.hpos = lastHeaderPos s
  · rw [receiveHeader_length b hp]
    exact .lengthByte b hs hp
  · rw [receiveHeader_before b hp]
    exact .headerByte b hs hp

theorem receivePayload_completes (b : Byte) {s : State} (hs : s.st = .payload) :
    Completes (.rxByte b) s (receivePayload b s) := by
  rw [receivePayload_eq b hs]
  exact .payloadByte b hs

theorem receiveChecksum_completes (b : Byte) {s : State} (hs : s.st = .checksum) :
    Completes (.rxByte b) s (receiveChecksum b s) := by
  by_cases hb : b = s.sum
  · subst hb
    rw [receiveChecksum, if_pos (by simp [accEq])]
    exact .sumMatches hs
  · rw [receiveChecksum, if_neg (by simpa [accEq] using hb)]
    exact .sumDiffers hs hb

theorem execRxByte_completes {b : Byte} {s t : State} (h : execRxByte b s = .next t) : Completes (.rxByte b) s t := by
  unfold execRxByte at h
  split at h
  case h_1 => cases h
  case h_2 hs => cases h; exact receiveHeader_completes b hs
  case h_3 hs => cases h; exact receivePayload_completes b hs
  case h_4 hs => cases h; exact receiveChecksum_completes b hs
  case h_5 hs => cases h; exact .dropped b (.inr hs)
  case h_6 hs => cases h; exact .dropped b (.inl hs)

theorem execRxTmo_completes {s t : State} (h : execRxTmo s = .next t) : Completes .rxTmo s t := by
  unfold execRxTmo at h
  split at h
  case h_1 => cases h
  case h_2 hs => cases h; exact .timeout (.inl hs)
  case h_3 hs => cases h; exact .timeout (.inr (.inl hs))
  case h_4 hs => cases h; exact .timeout (.inr (.inr hs))
  case h_5 hs => cases h; exact .finish hs
  case h_6 hs => cases h; exact .timeoutIdle hs

theorem execBufRd_completes {k : Byte} {s t : State} (h : execBufRd k s = .next t) : Completes (.bufRd k) s t := by
  obtain ⟨hs, h⟩ := admitIn_one_next.mp h
  split at h
  case isFalse => cases h
  case isTrue hk =>
    unfold readActive at h
    split at h
    case h_1 x hx => cases h; exact .read hs hk hx
    case h_2 => cases h

/-- Every next state that a row other than a wire format answers is one of the listed completions. -/
theorem exec_completes {i : Instr} {s t : State} (hi : isWireRow i = false) (h : exec i s = .next t) :
    Completes i s t := by
  cases i with
  | rst => cases h; exact .rst s
  | encStart c l => exact execEncStart_completes h
  | encData b => exact execEncData_completes h
  | decArm n => exact execDecArm_completes h
  | rxByte b => exact execRxByte_completes h
  | rxTmo => exact execRxTmo_completes h
  | bufRd k => exact execBufRd_completes h
  | statRd => cases h; exact .status s
  | reserved op a b => cases h
  | accClr => cases h; exact .clear s
  | accAdd b => cases h; exact .add s b
  | accEq b => cases h; exact .compare s b
  | reqFrame c payload => cases hi
  | rspFrame header payload checksum => cases hi
  | cmdSetVolume v => cases hi

/-- Each listed completion is one that the row answers. -/
theorem Completes.exec_eq {i : Instr} {s t : State} (h : Completes i s t) : exec i s = .next t := by
  cases h with
  | rst | status | clear | add | compare => rfl
  | emptyFrame c hs => exact (admitIn_of_mem _ (by simp [hs])).trans (by rw [closeFrame_complete rfl])
  | openFrame c hs hl => exact (admitIn_of_mem _ (by simp [hs])).trans (by rw [closeFrame_open hl])
  | lastData b hs hr => exact (admitIn_of_mem _ (by simp [hs])).trans (by rw [closeFrame_complete hr])
  | moreData b hs hr => exact (admitIn_of_mem _ (by simp [hs])).trans (by rw [closeFrame_open hr])
  | armZero hs => exact admitIn_of_mem _ (by simp [hs])
  | arm hs hn => exact (admitIn_of_mem _ (by simp [hs])).trans (by rw [if_neg hn])
  | headerByte b hs hp => simp [exec, execRxByte, hs, receiveHeader_before b hp, accAdd]
  | lengthByte b hs hp => simp [exec, execRxByte, hs, receiveHeader_length b hp]
  | payloadByte b hs => simp [exec, execRxByte, hs, receivePayload_eq b hs]
  | sumMatches hs => simp [exec, execRxByte, hs, receiveChecksum, accEq]
  | sumDiffers hs hb => simp [exec, execRxByte, hs, receiveChecksum, accEq, hb]
  | dropped b hs => rcases hs with hs | hs <;> simp [exec, execRxByte, hs]
  | timeout hs => rcases hs with hs | hs | hs <;> simp [exec, execRxTmo, hs]
  | finish hs => simp [exec, execRxTmo, hs]
  | timeoutIdle hs => simp [exec, execRxTmo, hs]
  | read hs hk hx =>
    refine (admitIn_of_mem _ (by simp [hs])).trans ?_
    simp [readActive, countOf, hk, hx]

/-! ### The wire rows -/

/-- A relation that the events keep is kept by the events of a wire row in order. -/
theorem exec_relates {R : State → State → Prop} (refl : ∀ s, R s s) (trans : ∀ s u t, R s u → R u t → R s t)
    (one : ∀ i s t, Completes i s t → R s t) (i : Instr) (s t : State) (h : exec i s = .next t) : R s t := by
  have bytes (f : Byte → State → Outcome) (hf : ∀ b u v, f b u = .next v → R u v) (bs : List Byte) (u v : State)
      (huv : forBytes f bs u = .next v) : R u v :=
    forBytes_keeps (P := R u) (fun b w x hw hx => trans u w x hw (hf b w x hx)) bs u v (refl u) huv
  have send (c : Byte) (payload : List Byte) (hsend : sendFrame c payload s = .next t) : R s t := by
    obtain ⟨u, hu, ht⟩ := andThen_next.mp hsend
    exact trans s u t (one _ s u (execEncStart_completes hu))
      (bytes execEncData (fun b v w hw => one _ v w (execEncData_completes hw)) payload u t ht)
  cases hi : isWireRow i with
  | false => exact one i s t (exec_completes hi h)
  | true =>
    cases i with
    | reqFrame c payload => exact send c payload h
    | cmdSetVolume v => exact send _ _ h
    | rspFrame header payload checksum =>
      exact bytes execRxByte (fun b u v hv => one _ u v (execRxByte_completes hv)) _ s t h
    | _ => cases hi

/-- Two runs of one operation on every byte, the second started in a related state, end in related states. -/
theorem forBytes_simulates {R : State → State → Prop} {f : Byte → State → Outcome}
    (step : ∀ b s s' t, R s s' → f b s = .next t → ∃ t', f b s' = .next t' ∧ R t t') (bs : List Byte) :
    ∀ s s' t, R s s' → forBytes f bs s = .next t → ∃ t', forBytes f bs s' = .next t' ∧ R t t' := by
  induction bs with
  | nil => intro s s' t hR h; cases h; exact ⟨s', rfl, hR⟩
  | cons b bs ih =>
    intro s s' t hR h
    obtain ⟨u, hu, ht⟩ := andThen_next.mp h
    obtain ⟨u', hu', hRu⟩ := step b s s' u hR hu
    obtain ⟨t', ht', hRt⟩ := ih u u' t hRu ht
    exact ⟨t', andThen_next.mpr ⟨u', hu', ht'⟩, hRt⟩

end Sys2Proof.Machine
end

section
/-!
SUPPORT. The invariant of spec/10_state.md R33: every completion of an event keeps it, so every run does.
-/

namespace Sys2Proof.Machine

/-! ### The buffer under the decoder's writes -/

theorem activeWritten_of_activeZero {s : State} (h : activeZero s) : activeWritten s :=
  fun k hk => by rw [h k hk]; rfl

/-- Arming makes exactly its own bytes active, all zero (spec/42_decoder.md R101). -/
theorem arm_activeZero (n : Byte) (s : State) : activeZero (arm n s) := fun k hk =>
  (readBuf_zeroBuf s n.toNat k).trans (if_pos hk)

/-- A failure leaves every active byte zero (spec/60_exceptions.md R165). -/
theorem raise_activeZero (f : Failure) (s : State) : activeZero (raise f s) := fun k hk =>
  (readBuf_zeroFill s k).trans (if_pos hk)

theorem storePayload_activeWritten (b : Byte) {s : State} (h : activeWritten s) : activeWritten (storePayload b s) := by
  intro k hk
  rw [readBuf_storePayload]
  split
  · rfl
  · exact h k (by simpa using hk)

/-! ### Counts -/

theorem one_le_toNat_of_ne_zero {b : Byte} (h : b ≠ 0) : 1 ≤ b.toNat := by bv_omega

/-! ### The header position -/

/-- The last header position is the length byte's (spec/42_decoder.md R103). -/
theorem hpos_eq_last_iff {s : State} : s.hpos = lastHeaderPos s ↔ s.hpos.toNat + 1 = s.cfg.hdrLen.toNat := by
  rw [← lastHeaderPos_toNat s, Nat.add_right_cancel_iff, BitVec.toNat_eq]

/-- Before it, the next position is one of the header's. -/
theorem hpos_succ_of_ne_last {s : State} (hp : s.hpos.toNat + 1 ≤ s.cfg.hdrLen.toNat) (h : s.hpos ≠ lastHeaderPos s) :
    (s.hpos + 1).toNat = s.hpos.toNat + 1 ∧ s.hpos.toNat + 2 ≤ s.cfg.hdrLen.toNat := by
  have hbounds := hdrLen_bounds s.cfg.hdrLen
  have hne := mt hpos_eq_last_iff.mpr h
  refine ⟨?_, by omega⟩
  rw [BitVec.toNat_add]
  exact Nat.mod_eq_of_lt (by simp; omega)

/-! ### Every completion keeps the invariant -/

theorem State.Inv.rem_eq_zero {s : State} (h : s.Inv) (hs : s.st ≠ .enc) : s.rem.toNat = 0 := by
  have := mt h.owes.mpr hs
  omega

theorem resetRegisters_inv {s : State} (h : s.Inv) : (resetRegisters s).Inv where
  canonical := h.canonical
  written := fun k hk => absurd hk (by simp)
  owes := by simp
  position := by have := hdrLen_bounds s.cfg.hdrLen; simp; omega
  inHeader := nofun
  inPayload := nofun
  inChecksum := nofun
  inDone := nofun
  armed := by simp
  failureZero := by simp

/-- Between transactions nothing is owed and no phase binds the registers. -/
theorem goto_idle_inv {s : State} (h : s.Inv) (hrem : s.rem.toNat = 0) : (goto .idle s).Inv :=
  { h with
    owes := by simp [hrem]
    inHeader := nofun
    inPayload := nofun
    inChecksum := nofun
    inDone := nofun
    armed := by simp }

/-- The encoder writes `sum`, `rem`, `tx` and the phase (spec/41_encoder.md R90), of which the invariant binds
`rem` and the phase alone. -/
theorem State.Inv.of_encoder {s : State} (h : s.Inv) (sum rem : Byte) (tx : List Byte) {p : Phase}
    (hp : p = .idle ∧ rem = 0 ∨ p = .enc ∧ rem ≠ 0) : ({ s with sum := sum, rem := rem, tx := tx, st := p } : State).Inv := by
  have hphase : p ≠ .header ∧ p ≠ .payload ∧ p ≠ .checksum ∧ p ≠ .done := by
    rcases hp with ⟨rfl, -⟩ | ⟨rfl, -⟩ <;> decide
  obtain ⟨hheader, hpayload, hchecksum, hdone⟩ := hphase
  have howes : p = .enc ↔ 1 ≤ rem.toNat := by
    rcases hp with ⟨rfl, rfl⟩ | ⟨rfl, hr⟩
    · simp
    · simpa using one_le_toNat_of_ne_zero hr
  exact { h with
    owes := howes
    inHeader := fun hs => absurd hs hheader
    inPayload := fun hs => absurd hs hpayload
    inChecksum := fun hs => absurd hs hchecksum
    inDone := fun hs => absurd hs hdone
    armed := by simp [hheader, hpayload, hchecksum] }

theorem arm_inv {s : State} {n : Byte} (h : s.Inv) (hs : s.st = .idle) (hn : n ≠ 0) : (arm n s).Inv where
  canonical := zeroBuf_wf s n h.canonical
  written := activeWritten_of_activeZero (arm_activeZero n s)
  owes := by simpa using h.rem_eq_zero (by simp [hs])
  position := by have := hdrLen_bounds s.cfg.hdrLen; simp; omega
  inHeader := fun _ => ⟨rfl, rfl, rfl⟩
  inPayload := nofun
  inChecksum := nofun
  inDone := nofun
  armed := fun _ => one_le_toNat_of_ne_zero hn
  failureZero := fun _ => arm_activeZero n s

theorem headerByte_inv {s : State} (b : Byte) (h : s.Inv) (hs : s.st = .header) (hp : s.hpos ≠ lastHeaderPos s) :
    ({ s with sum := s.sum + b, hpos := s.hpos + 1 } : State).Inv := by
  obtain ⟨hnext, hle⟩ := hpos_succ_of_ne_last h.position hp
  exact { h with
    position := by simp only [hnext]; omega
    inPayload := by simp [hs]
    inChecksum := by simp [hs] }

/-- The header's length byte leads to the payload or, for an empty payload, to the checksum. -/
theorem lengthByte_inv {s : State} (b : Byte) (h : s.Inv) (hs : s.st = .header) (hp : s.hpos = lastHeaderPos s) :
    ({ s with sum := s.sum + b, cnt := b, st := bodyPhase b.toNat } : State).Inv := by
  obtain ⟨-, hoff, hvd⟩ := h.inHeader hs
  have hpos := hpos_eq_last_iff.mp hp
  exact { h with
    owes := by simp [h.rem_eq_zero (by simp [hs])]
    inHeader := by simp
    inPayload := fun hst => ⟨(bodyPhase_eq_payload _).mp hst, hpos, by simp only [hoff]; bv_omega, hvd⟩
    inChecksum := fun hst => ⟨BitVec.eq_of_toNat_eq ((bodyPhase_eq_checksum _).mp hst), hpos, hvd⟩
    inDone := by simp
    armed := fun _ => h.armed (.inl hs) }

/-- A payload byte keeps the captured length `off + cnt`, and the last one leads to the checksum. -/
theorem payloadByte_inv {s : State} (b : Byte) (h : s.Inv) (hs : s.st = .payload) :
    ({ s with sum := s.sum + b, cnt := s.cnt - 1, off := s.off + 1, st := bodyPhase (s.cnt - 1).toNat,
              buf := (storePayload b s).buf } : State).Inv := by
  obtain ⟨hcnt, hpos, hlen, hvd⟩ := h.inPayload hs
  exact { h with
    canonical := storePayload_wf s b h.canonical
    written := fun k hk => storePayload_activeWritten b h.written k (by simpa using hk)
    owes := by simp [h.rem_eq_zero (by simp [hs])]
    inHeader := by simp
    inPayload := fun hst => ⟨(bodyPhase_eq_payload _).mp hst, hpos, by simp only; bv_omega, hvd⟩
    inChecksum := fun hst => ⟨BitVec.eq_of_toNat_eq ((bodyPhase_eq_checksum _).mp hst), hpos, hvd⟩
    inDone := by simp
    armed := fun _ => h.armed (.inr (.inl hs))
    failureZero := by simp [hvd] }

theorem sumMatches_inv {s : State} (h : s.Inv) (hs : s.st = .checksum) : (goto .done (setVerdict .ok s)).Inv :=
  { h with
    owes := by simpa using h.rem_eq_zero (by simp [hs])
    inHeader := nofun
    inPayload := nofun
    inChecksum := nofun
    inDone := fun _ => .inl rfl
    armed := by simp
    failureZero := by simp }

theorem raise_inv {s : State} (f : Failure) (h : s.Inv) (hs : s.st ≠ .enc) : (raise f s).Inv where
  canonical := zeroFill_wf s h.canonical
  written := activeWritten_of_activeZero (raise_activeZero f s)
  owes := by cases f <;> simpa [failurePhase] using h.rem_eq_zero hs
  position := h.position
  inHeader := by cases f <;> nofun
  inPayload := by cases f <;> nofun
  inChecksum := by cases f <;> nofun
  inDone := by
    cases f
    · exact fun _ => .inr rfl
    · nofun
  armed := by cases f <;> simp [failurePhase]
  failureZero := fun _ => raise_activeZero f s

theorem Completes.keeps_inv {i : Instr} {s t : State} (hc : Completes i s t) (h : s.Inv) : t.Inv := by
  cases hc with
  | rst => exact resetRegisters_inv h
  | emptyFrame c hs => exact h.of_encoder _ _ _ (.inl ⟨rfl, rfl⟩)
  | openFrame c hs hl => exact h.of_encoder _ _ _ (.inr ⟨rfl, hl⟩)
  | lastData b hs hr => exact h.of_encoder _ _ _ (.inl ⟨rfl, hr⟩)
  | moreData b hs hr => exact h.of_encoder _ _ _ (.inr ⟨rfl, hr⟩)
  | armZero => exact h
  | arm hs hn => exact arm_inv h hs hn
  | headerByte b hs hp => exact headerByte_inv b h hs hp
  | lengthByte b hs hp => exact lengthByte_inv b h hs hp
  | payloadByte b hs => exact payloadByte_inv b h hs
  | sumMatches hs => exact sumMatches_inv h hs
  | sumDiffers hs hb => exact raise_inv _ h (by simp [hs])
  | dropped => exact h
  | timeout hs => exact raise_inv _ h (by rcases hs with hs | hs | hs <;> simp [hs])
  | finish hs => exact goto_idle_inv h (h.rem_eq_zero (by simp [hs]))
  | timeoutIdle => exact h
  | read | status | clear | add | compare => exact { h with }

/-- Every row of the table keeps the invariant, the wire rows as their events do. -/
theorem exec_keeps_inv {i : Instr} {s t : State} (h : s.Inv) (ht : exec i s = .next t) : t.Inv :=
  exec_relates (R := fun s t => s.Inv → t.Inv) (fun _ h => h) (fun _ _ _ hsu hut h => hut (hsu h))
    (fun _ _ _ hc => hc.keeps_inv) i s t ht h

/-! ### Runs -/

/-- The event stream is no part of the invariant. -/
theorem State.Inv.of_pending {s : State} (h : s.Inv) (ws : List EventWord) : ({ s with pending := ws } : State).Inv :=
  { h with }

/-- A step waits, or performs the oldest event. -/
theorem step_next {s t : State} (h : step s = .next t) :
    t = s ∨ ∃ w rest, s.pending = w :: rest ∧ exec (decodeEvent w) { s with pending := rest } = .next t := by
  unfold step at h
  split at h
  case h_1 => cases h; exact .inl rfl
  case h_2 w s' hw =>
    obtain ⟨rest, hpending, rfl⟩ := takeEvent_some.mp hw
    exact .inr ⟨w, rest, hpending, h⟩

theorem step_keeps_inv {s t : State} (h : s.Inv) (ht : step s = .next t) : t.Inv := by
  rcases step_next ht with rfl | ⟨w, rest, -, hw⟩
  · exact h
  · exact exec_keeps_inv (h.of_pending rest) hw

theorem run_succ (k : Nat) (s : State) :
    Host.Core.run Sys2Proof.core (k + 1) s = andThen (step s) (Host.Core.run Sys2Proof.core k) := by
  have hcore : Sys2Proof.core.step s = step s := rfl
  cases h : step s <;> simp only [Host.Core.run, hcore, h, andThen] <;> rfl

/-- What every step keeps, every run keeps. -/
theorem run_keeps {P : State → Prop} (hstep : ∀ s t, P s → step s = .next t → P t) (k : Nat) :
    ∀ s t, P s → Host.Core.run Sys2Proof.core k s = .next t → P t := by
  induction k with
  | zero => intro s t hs h; cases h; exact hs
  | succ k ih =>
    intro s t hs h
    rw [run_succ] at h
    obtain ⟨u, hu, ht⟩ := andThen_next.mp h
    exact ih u t (hstep s u hs hu) ht

/-- Settles O42: the step lemma of R33 is that every row keeps the invariant. -/
theorem stepKeepsInvariant : Obligations.StepKeepsInvariant := fun _ _ => step_keeps_inv

/-- Settles O45: the outputs are read off, and while `fail` is true R33 (h) holds in the state reached. -/
theorem derivedOutputsInEveryRun : Obligations.DerivedOutputsInEveryRun := by
  intro k s t hs hrun
  have ht : t.Inv := run_keeps (fun _ _ => step_keeps_inv) k s t hs hrun
  have hfail : failed t = true ↔ t.vd = .sumErr ∨ t.vd = .tmo := by simp [failed]
  exact ⟨by simp [busy], by simp [succeeded], hfail, fun h => ht.failureZero (hfail.mp h)⟩

/-- Settles O43: at reset no register counts, no byte is active, and no phase binds. -/
theorem resetMeetsInvariant : Obligations.ResetMeetsInvariant := by
  intro h ws
  have hreset : ({ State.reset with cfg := { hdrLen := h } } : State).Inv := by
    cases h <;> constructor <;> decide
  exact hreset.of_pending ws

end Sys2Proof.Machine
end

section
/-!
SUPPORT. What each event leaves unchanged, when it is refused, and where it leads: spec/10_state.md R20, R25, R26, R28, R31,
R34, each read off the completions.
-/

namespace Sys2Proof.Machine

/-! ### Reset -/

/-- With no active byte every `BUF.RD` is refused (spec/10_state.md R34). -/
theorem bufRd_refused_of_blen_zero {s : State} (hs : s.st = .idle) (hb : s.blen = 0) (k : Byte) :
    exec (.bufRd k) s = .refused (.inactiveOffset k) :=
  (admitIn_of_mem _ (by simp [hs])).trans (if_neg (by simp [hb, countOf]))

/-- Settles O1: the reset values, and `blen = 0` for the unreadable buffer. -/
theorem resetState : Obligations.ResetState :=
  ⟨⟨rfl, rfl, rfl, rfl, rfl, rfl, rfl, rfl, rfl, bufRd_refused_of_blen_zero rfl rfl⟩, fun s =>
    ⟨resetRegisters s, rfl, rfl, rfl, rfl, rfl, rfl, rfl, rfl, rfl, fun _ => rfl, rfl, rfl,
      bufRd_refused_of_blen_zero rfl rfl⟩⟩

/-! ### Parameters and event stream -/

theorem Completes.cfg_pending {i : Instr} {s t : State} (h : Completes i s t) :
    t.cfg = s.cfg ∧ t.pending = s.pending := by
  cases h <;> simp [emitHeader]

/-- The same state with another event stream behind the current event. -/
def redeliver (ws : List EventWord) (s : State) : State := { s with pending := ws }

/-- What an operation does never depends on the events behind it (spec/30_encoding.md R63). -/
theorem Completes.redelivered {i : Instr} {s t : State} (ws : List EventWord) (h : Completes i s t) :
    Completes i (redeliver ws s) (redeliver ws t) := by
  cases h with
  | rst => exact .rst _
  | emptyFrame c hs => exact .emptyFrame c hs
  | openFrame c hs hl => exact .openFrame c hs hl
  | lastData b hs hr => exact .lastData b hs hr
  | moreData b hs hr => exact .moreData b hs hr
  | armZero hs => exact .armZero hs
  | arm hs hn => exact .arm hs hn
  | headerByte b hs hp => exact .headerByte b hs hp
  | lengthByte b hs hp => exact .lengthByte b hs hp
  | payloadByte b hs =>
    have hbuf : (storePayload b (redeliver ws s)).buf = (storePayload b s).buf := storePayload_buf_congr b rfl rfl rfl
    exact hbuf ▸ Completes.payloadByte (s := redeliver ws s) b hs
  | sumMatches hs => exact .sumMatches (s := redeliver ws s) hs
  | sumDiffers hs hb => exact .sumDiffers (s := redeliver ws s) hs hb
  | dropped b hs => exact .dropped b hs
  | timeout hs => exact .timeout hs
  | finish hs => exact .finish hs
  | timeoutIdle hs => exact .timeoutIdle hs
  | read hs hk hx => exact .read hs hk hx
  | status => exact .status _
  | clear => exact .clear _
  | add => exact .add _ _
  | compare => exact .compare _ _

/-- A run of one event for each byte does not depend on the events behind it. -/
theorem forBytes_redeliver {f : Byte → Instr} (hf : ∀ b, isWireRow (f b) = false) (ws : List EventWord) {bs : List Byte}
    {s t : State} (h : forBytes (fun b => exec (f b)) bs s = .next t) :
    forBytes (fun b => exec (f b)) bs (redeliver ws s) = .next (redeliver ws t) := by
  obtain ⟨t', ht', rfl⟩ := forBytes_simulates (R := fun s s' => s' = redeliver ws s)
    (fun b s s' t hR hb => ⟨_, hR ▸ ((exec_completes (hf b) hb).redelivered ws).exec_eq, rfl⟩) bs s _ t rfl h
  exact ht'

theorem sendFrame_redeliver (ws : List EventWord) {c : Byte} {payload : List Byte} {s t : State}
    (h : sendFrame c payload s = .next t) : sendFrame c payload (redeliver ws s) = .next (redeliver ws t) := by
  obtain ⟨u, hu, ht⟩ := andThen_next.mp h
  exact andThen_next.mpr
    ⟨_, ((execEncStart_completes hu).redelivered ws).exec_eq, forBytes_redeliver (f := .encData) (fun _ => rfl) ws ht⟩

theorem exec_redeliver (ws : List EventWord) {i : Instr} {s t : State} (h : exec i s = .next t) :
    exec i (redeliver ws s) = .next (redeliver ws t) := by
  cases hi : isWireRow i with
  | false => exact ((exec_completes hi h).redelivered ws).exec_eq
  | true =>
    cases i with
    | reqFrame c payload => exact sendFrame_redeliver ws h
    | cmdSetVolume v => exact sendFrame_redeliver ws h
    | rspFrame header payload checksum => exact forBytes_redeliver (f := .rxByte) (fun _ => rfl) ws h
    | _ => cases hi

/-- Settles O47: parameters and stream are in no operation's frame of writes, and no operation reads the stream. -/
theorem configAndStreamUntouched : Obligations.ConfigAndStreamUntouched :=
  ⟨exec_relates (R := fun s t => t.cfg = s.cfg ∧ t.pending = s.pending) (fun _ => ⟨rfl, rfl⟩)
      (fun _ _ _ ⟨hcfg, hpending⟩ ⟨hcfg', hpending'⟩ => ⟨hcfg'.trans hcfg, hpending'.trans hpending⟩)
      (fun _ _ _ h => h.cfg_pending),
    fun _ _ _ ws h => exec_redeliver ws h⟩

/-! ### Output -/

/-- Only the encoder's two events emit, and they only append. -/
theorem Completes.tx {i : Instr} {s t : State} (h : Completes i s t) :
    t.tx = s.tx ∨ ((∃ c l, i = .encStart c l) ∨ ∃ b, i = .encData b) ∧ ∃ bs, t.tx = s.tx ++ bs := by
  cases h with
  | emptyFrame c hs => exact .inr ⟨.inl ⟨_, _, rfl⟩, [startMarker, c, 0, _], by simp [emitHeader]; rfl⟩
  | @openFrame _ c l hs hl => exact .inr ⟨.inl ⟨_, _, rfl⟩, [startMarker, c, l], by simp [emitHeader]⟩
  | lastData b hs hr => exact .inr ⟨.inr ⟨_, rfl⟩, [b, _], by simp; rfl⟩
  | moreData b hs hr => exact .inr ⟨.inr ⟨_, rfl⟩, [b], by simp⟩
  | _ => exact .inl (by simp)

theorem exec_tx_grows {i : Instr} {s t : State} (h : exec i s = .next t) : ∃ bs, t.tx = s.tx ++ bs :=
  exec_relates (R := fun s t => ∃ bs, t.tx = s.tx ++ bs) (fun _ => ⟨[], by simp⟩)
    (fun _ _ _ ⟨bs, hu⟩ ⟨cs, ht⟩ => ⟨bs ++ cs, by rw [ht, hu, List.append_assoc]⟩)
    (fun _ _ _ hc => hc.tx.elim (fun h => ⟨[], by simp [h]⟩) (fun ⟨_, hbs⟩ => hbs)) i s t h

/-- Settles O48: every completion appends, and one that is no encoder's appends nothing. -/
theorem outputOnlyGrows : Obligations.OutputOnlyGrows := by
  intro i s t h
  obtain ⟨bs, hbs⟩ := exec_tx_grows h
  refine ⟨bs, hbs, fun hi hne => ?_⟩
  rcases (exec_completes (isWireRow_of_isEvent hi) h).tx with hsame | ⟨hencoder, -⟩
  · exact absurd (by simpa [hsame] using hbs) hne
  · exact hencoder

/-! ### Verdict -/

theorem State.Inv.vd_none_of_decoding {s : State} (h : s.Inv) (hs : s.st = .header ∨ s.st = .payload ∨ s.st = .checksum) :
    s.vd = .none := by
  rcases hs with hs | hs | hs
  · obtain ⟨-, -, hvd⟩ := h.inHeader hs
    exact hvd
  · obtain ⟨-, -, -, hvd⟩ := h.inPayload hs
    exact hvd
  · obtain ⟨-, -, hvd⟩ := h.inChecksum hs
    exact hvd

/-- Settles O49: only `RST`, an arming and the end of a decode write the verdict, and a decode that has not ended has none. -/
theorem verdictSticky : Obligations.VerdictSticky := by
  intro i s t h hi hrst harm hvd ht
  have decoding (hs : s.st = .header ∨ s.st = .payload ∨ s.st = .checksum) : t.vd = s.vd :=
    absurd (h.vd_none_of_decoding hs) hvd
  cases exec_completes (isWireRow_of_isEvent hi) ht with
  | rst => exact absurd rfl hrst
  | arm hs hn => exact absurd (harm _ rfl) hn
  | sumMatches hs => exact decoding (.inr (.inr hs))
  | sumDiffers hs hb => exact decoding (.inr (.inr hs))
  | timeout hs => exact decoding hs
  | _ => simp [emitHeader]

/-! ### Registers -/

/-- Settles O51: each completion's own writes, against the column "written by". -/
theorem registersChangeOnlyByWriters : Obligations.RegistersChangeOnlyByWriters := by
  intro i s t hi hrst ht
  cases exec_completes (isWireRow_of_isEvent hi) ht with
  | rst => exact absurd rfl hrst
  | headerByte b hs | lengthByte b hs | payloadByte b hs | sumMatches hs | sumDiffers hs => simp [hs]
  | clear | add => cases hi
  | _ => simp [emitHeader]

/-! ### Admission and transitions -/

/-- An operation of one phase is refused in every other. -/
theorem admitIn_one_cases (p : Phase) (s : State) (effect : Outcome) :
    s.st = p ∧ admitIn [p] s effect = effect ∨ s.st ≠ p ∧ admitIn [p] s effect = .refused (.notAdmitted s.st) := by
  by_cases h : s.st = p
  · exact .inl ⟨h, admitIn_of_mem _ (by simp [h])⟩
  · exact .inr ⟨h, admitIn_of_not_mem _ (by simp [h])⟩

/-- In every state that keeps the invariant an event is refused, where its cell of the transition table says so, or
completes (spec/30_encoding.md R70). -/
theorem event_refused_or_completes {i : Instr} {s : State} (hi : isEvent i = true) (h : s.Inv) :
    (transitionCell i s = [] ∧ ∃ r, exec i s = .refused r) ∨ ∃ t, exec i s = .next t := by
  cases i with
  | rst | statRd => exact .inr ⟨_, rfl⟩
  | encStart c l =>
    rcases admitIn_one_cases .idle s _ with ⟨-, he⟩ | ⟨hs, he⟩
    · exact .inr ⟨_, he⟩
    · exact .inl ⟨if_neg hs, _, he⟩
  | encData b =>
    rcases admitIn_one_cases .enc s _ with ⟨-, he⟩ | ⟨hs, he⟩
    · exact .inr ⟨_, he⟩
    · exact .inl ⟨if_neg hs, _, he⟩
  | decArm n =>
    rcases admitIn_one_cases .idle s _ with ⟨-, he⟩ | ⟨hs, he⟩
    · exact .inr ⟨_, he⟩
    · exact .inl ⟨if_neg hs, _, he⟩
  | rxByte b =>
    by_cases hs : s.st = .enc
    · exact .inl ⟨by simp [transitionCell, rxByteCell, hs], .notAdmitted .enc, by simp [exec, execRxByte, hs]⟩
    · obtain ⟨t, ht, -⟩ := execRxByte_next b s hs
      exact .inr ⟨t, ht⟩
  | rxTmo =>
    cases hs : s.st with
    | enc => exact .inl ⟨by simp [transitionCell, rxTmoCell, hs], .notAdmitted .enc, by simp [exec, execRxTmo, hs]⟩
    | idle => exact .inr ⟨_, (Completes.timeoutIdle hs).exec_eq⟩
    | done => exact .inr ⟨_, (Completes.finish hs).exec_eq⟩
    | header | payload | checksum => exact .inr ⟨_, (Completes.timeout (by simp [hs])).exec_eq⟩
  | bufRd k =>
    by_cases hs : s.st = .idle
    · by_cases hk : k.toNat < s.blen.toNat
      · obtain ⟨x, hx⟩ := Option.isSome_iff_exists.mp (h.written _ hk)
        exact .inr ⟨_, (Completes.read hs hk hx).exec_eq⟩
      · exact .inl ⟨by simp [transitionCell, hk], _, (admitIn_of_mem _ (by simp [hs])).trans (if_neg hk)⟩
    · exact .inl ⟨if_neg hs, _, admitIn_of_not_mem _ (by simp [hs])⟩
  | reserved op a b => exact .inl ⟨rfl, _, rfl⟩
  | accClr | accAdd | accEq | reqFrame | rspFrame | cmdSetVolume => cases hi

/-- An event that completes leads to a phase that its cell of the transition table names (spec/10_state.md R25). -/
theorem Completes.st_mem_transitionCell {i : Instr} {s t : State} (h : Completes i s t) (hi : isEvent i = true) :
    t.st ∈ transitionCell i s := by
  cases h with
  | rst | status => simp [transitionCell]
  | emptyFrame c hs => simp [transitionCell, hs]
  | openFrame c hs hl => simp [transitionCell, hs, one_le_toNat_of_ne_zero hl]
  | lastData b hs hr => simp [transitionCell, hs, (sub_one_eq_zero_iff _).mp hr]
  | moreData b hs hr => simp [transitionCell, hs, mt (sub_one_eq_zero_iff _).mpr hr]
  | armZero hs => simp [transitionCell, hs]
  | arm hs hn => simp [transitionCell, hs, one_le_toNat_of_ne_zero hn]
  | headerByte b hs | sumMatches hs | sumDiffers hs => simp [transitionCell, rxByteCell, failurePhase, hs]
  | lengthByte b hs | payloadByte b hs => simp [transitionCell, rxByteCell, hs]; omega
  | dropped b hs => rcases hs with hs | hs <;> simp [transitionCell, rxByteCell, hs]
  | timeout hs => rcases hs with hs | hs | hs <;> simp [transitionCell, rxTmoCell, failurePhase, hs]
  | finish hs | timeoutIdle hs => simp [transitionCell, rxTmoCell, hs]
  | read hs hk hx => simp [transitionCell, hs, hk]
  | clear | add | compare => cases hi

/-- Settles O39: refused where the cell is empty, else led to a phase of the cell. -/
theorem transitionTable : Obligations.TransitionTable := fun _ _ hi h =>
  (event_refused_or_completes hi h).imp id fun ⟨t, ht⟩ =>
    ⟨t, ht, (exec_completes (isWireRow_of_isEvent hi) ht).st_mem_transitionCell hi⟩

end Sys2Proof.Machine
end

section
/-!
SUPPORT. The decoder on a sequence of bytes, one lemma for each part of a response: the header before its length byte, the
payload, the checksum byte, what follows it (spec/42_decoder.md R103 to R107); and the whole of it after arming (spec/10_state.md
R33).
-/

namespace Sys2Proof.Machine

/-! ### Sums -/

theorem sum8_append (as bs : List Byte) : sum8 (as ++ bs) = sum8 as + sum8 bs := by
  induction as with
  | nil => simp [sum8]
  | cons a as ih => simp only [List.cons_append, sum8, ih, BitVec.add_assoc]

/-! ### One byte received -/

theorem execRxByte_headerByte {s : State} (b : Byte) (hs : s.st = .header) (hp : s.hpos ≠ lastHeaderPos s) :
    execRxByte b s = .next { s with sum := s.sum + b, hpos := s.hpos + 1 } :=
  (Completes.headerByte b hs hp).exec_eq

theorem execRxByte_length {s : State} (b : Byte) (hs : s.st = .header) (hp : s.hpos = lastHeaderPos s) :
    execRxByte b s = .next { s with sum := s.sum + b, cnt := b, st := bodyPhase b.toNat } :=
  (Completes.lengthByte b hs hp).exec_eq

theorem payloadSlot_eq_some {s : State} {k : Nat} : payloadSlot s = some k ↔ k = s.off.toNat ∧ k < s.blen.toNat := by
  unfold payloadSlot countOf
  by_cases h : s.off.toNat < s.blen.toNat <;> simp [h] <;> omega

theorem execRxByte_payload {s : State} (b : Byte) (hs : s.st = .payload) (hcnt : 1 ≤ s.cnt.toNat) :
    ∃ u, execRxByte b s = .next u ∧
      u = { s with sum := s.sum + b, cnt := s.cnt - 1, off := s.off + 1, st := bodyPhase (s.cnt.toNat - 1),
                   buf := u.buf } ∧
      ∀ k, readBuf u k = if k = s.off.toNat ∧ k < s.blen.toNat then some b else readBuf s k := by
  have hleft : (s.cnt - 1).toNat = s.cnt.toNat - 1 := by bv_omega
  refine ⟨_, (Completes.payloadByte b hs).exec_eq, by rw [hleft], fun k => ?_⟩
  simp only [← payloadSlot_eq_some]
  exact readBuf_storePayload s b k

theorem execRxByte_checksum {s : State} (b : Byte) (hs : s.st = .checksum) :
    ∃ u, execRxByte b s = .next u ∧
      u = { s with vd := if b = s.sum then .ok else .sumErr, st := .done, buf := u.buf } ∧
      ∀ k, readBuf u k = if b ≠ s.sum ∧ k < s.blen.toNat then some 0 else readBuf s k := by
  by_cases hb : b = s.sum
  · subst hb
    exact ⟨_, (Completes.sumMatches hs).exec_eq, by simp [goto, setVerdict], fun k => by simp [readBuf]⟩
  · refine ⟨_, (Completes.sumDiffers hs hb).exec_eq, ?_, fun k => ?_⟩
    · simp [raise, goto, setVerdict, zeroFill, zeroBuf, failurePhase, failureVerdict, hb]
    · simp only [ne_eq, hb, not_false_eq_true, true_and]
      exact readBuf_zeroFill s k

/-! ### Bytes received in one phase -/

/-- Header bytes before the length byte are summed and counted. -/
theorem forBytes_header (bs : List Byte) : ∀ s : State, s.st = .header →
    s.hpos.toNat + bs.length + 1 ≤ s.cfg.hdrLen.toNat →
    forBytes execRxByte bs s =
      .next { s with sum := s.sum + sum8 bs, hpos := s.hpos + BitVec.ofNat 2 bs.length } := by
  induction bs with
  | nil => intro s _ _; simp [forBytes_nil, sum8]
  | cons b bs ih =>
    intro s hs hlen
    rw [List.length_cons] at hlen
    have hne : s.hpos ≠ lastHeaderPos s := fun h => by have := hpos_eq_last_iff.mp h; omega
    obtain ⟨hnext, -⟩ := hpos_succ_of_ne_last (by omega) hne
    have hpos : s.hpos + 1 + BitVec.ofNat 2 bs.length = s.hpos + BitVec.ofNat 2 (bs.length + 1) := by
      rw [BitVec.add_assoc, BitVec.add_comm 1, BitVec.ofNat_add]; rfl
    rw [forBytes_cons, execRxByte_headerByte b hs hne, andThen_of_next]
    have hlen' : (s.hpos + 1).toNat + bs.length + 1 ≤ s.cfg.hdrLen.toNat := by omega
    refine (ih { s with sum := s.sum + b, hpos := s.hpos + 1 } hs hlen').trans ?_
    simp only [sum8, List.length_cons, hpos, BitVec.add_assoc]

/-- What payload bytes leave at an offset: byte `k` of them at `off + k`, where that is active, and else what stood there. -/
def payloadRead (bs : List Byte) (s : State) (k : Nat) : Option Byte :=
  if s.off.toNat ≤ k ∧ k < s.blen.toNat then (bs[k - s.off.toNat]?).or (readBuf s k) else readBuf s k

@[simp] theorem payloadRead_nil (s : State) (k : Nat) : payloadRead [] s k = readBuf s k := by simp [payloadRead]

/-- The first payload byte is stored at its slot, the others from the next offset on. -/
theorem payloadRead_cons {s u : State} {b : Byte} (bs : List Byte) (hblen : u.blen = s.blen)
    (hoff : u.off.toNat = s.off.toNat + 1)
    (hu : ∀ k, readBuf u k = if k = s.off.toNat ∧ k < s.blen.toNat then some b else readBuf s k) (k : Nat) :
    payloadRead bs u k = payloadRead (b :: bs) s k := by
  simp only [payloadRead, hblen, hoff, hu]
  by_cases hk : k < s.blen.toNat
  · rcases Nat.lt_trichotomy k s.off.toNat with hlt | heq | hgt
    · simp [hk, show ¬ s.off.toNat + 1 ≤ k by omega, show ¬ s.off.toNat ≤ k by omega, show k ≠ s.off.toNat by omega]
    · simp [← heq, hk]
    · simp [hk, show s.off.toNat + 1 ≤ k by omega, show s.off.toNat ≤ k by omega, show k ≠ s.off.toNat by omega,
        show k - s.off.toNat = k - (s.off.toNat + 1) + 1 by omega]
  · simp [hk]

/-- Payload bytes are summed, counted, and stored where there is room; the last one owed leads to the checksum. -/
theorem forBytes_payload (bs : List Byte) : ∀ s : State, s.st = bodyPhase s.cnt.toNat → bs.length ≤ s.cnt.toNat →
    s.off.toNat + s.cnt.toNat ≤ 255 →
    ∃ u, forBytes execRxByte bs s = .next u ∧
      u = { s with sum := s.sum + sum8 bs, cnt := s.cnt - BitVec.ofNat 8 bs.length,
                   off := s.off + BitVec.ofNat 8 bs.length, st := bodyPhase (s.cnt.toNat - bs.length), buf := u.buf } ∧
      ∀ k, readBuf u k = payloadRead bs s k := by
  induction bs with
  | nil =>
    intro s hs _ _
    exact ⟨s, rfl, by simp [sum8, ← hs], fun k => (payloadRead_nil s k).symm⟩
  | cons b bs ih =>
    intro s hs hlen hoff
    rw [List.length_cons] at hlen
    obtain ⟨u, hu, hueq, hreadu⟩ := execRxByte_payload b (hs.trans (bodyPhase_of_pos (by omega))) (by omega)
    have hcntu : u.cnt = s.cnt - 1 := by rw [hueq]
    have hoffu : u.off = s.off + 1 := by rw [hueq]
    have hcnt1 : u.cnt.toNat = s.cnt.toNat - 1 := by rw [hcntu]; bv_omega
    have hoff1 : u.off.toNat = s.off.toNat + 1 := by rw [hoffu]; bv_omega
    obtain ⟨v, hv, hveq, hreadv⟩ := ih u (by rw [hcnt1, hueq]) (by omega) (by omega)
    refine ⟨v, andThen_next.mpr ⟨u, hu, hv⟩, hveq.trans ?_, fun k => ?_⟩
    · have hcnt : u.cnt - BitVec.ofNat 8 bs.length = s.cnt - BitVec.ofNat 8 (bs.length + 1) := by
        rw [hcntu]; bv_omega
      have hoff : u.off + BitVec.ofNat 8 bs.length = s.off + BitVec.ofNat 8 (bs.length + 1) := by
        rw [hoffu]; bv_omega
      have hleft : u.cnt.toNat - bs.length = s.cnt.toNat - (bs.length + 1) := by omega
      rw [hcnt, hoff, hleft, hueq]
      simp only [sum8, List.length_cons, BitVec.add_assoc]
    · rw [hreadv, payloadRead_cons bs (by rw [hueq]) hoff1 hreadu]

/-- Bytes outside a frame are dropped (spec/42_decoder.md R107). -/
theorem forBytes_dropped (bs : List Byte) {s : State} (hs : s.st = .idle ∨ s.st = .done) :
    forBytes execRxByte bs s = .next s := by
  induction bs with
  | nil => rfl
  | cons b bs ih => exact andThen_next.mpr ⟨s, (Completes.dropped b hs).exec_eq, ih⟩

/-- The length byte and payload bytes up to the length it gives, the first at offset 0. -/
theorem forBytes_body {s : State} {l : Byte} {payload : List Byte} (hs : s.st = .header) (hp : s.hpos = lastHeaderPos s)
    (hoff : s.off = 0) (hlen : payload.length ≤ l.toNat) :
    ∃ u, forBytes execRxByte (l :: payload) s = .next u ∧
      u = { s with sum := s.sum + sum8 (l :: payload), cnt := l - BitVec.ofNat 8 payload.length,
                   off := BitVec.ofNat 8 payload.length, st := bodyPhase (l.toNat - payload.length), buf := u.buf } ∧
      ∀ k, readBuf u k = if k < s.blen.toNat then (payload[k]?).or (readBuf s k) else readBuf s k := by
  obtain ⟨u, hu, hueq, hread⟩ := forBytes_payload payload
    { s with sum := s.sum + l, cnt := l, st := bodyPhase l.toNat } rfl hlen (by simp only [hoff]; bv_omega)
  refine ⟨u, andThen_next.mpr ⟨_, execRxByte_length l hs hp, hu⟩, hueq.trans ?_, fun k => (hread k).trans ?_⟩
  · simp only [sum8, hoff, BitVec.add_assoc, zero_add]
  · simp [payloadRead, hoff, readBuf]

/-- After the header bytes before the length byte, the position is the length byte's. -/
theorem lastPos_of_header {h : HdrLen} {header : List Byte} (hheader : header.length + 1 = h.toNat) :
    (BitVec.ofNat 2 header.length).toNat + 1 = h.toNat := by
  have hbounds := hdrLen_bounds h
  rw [BitVec.toNat_ofNat, Nat.mod_eq_of_lt] <;> omega

/-- A whole header and payload bytes up to the length it gives, from the first header byte on. -/
theorem forBytes_headerAndBody {s : State} {header payload : List Byte} {l : Byte} (hs : s.st = .header) (hpos : s.hpos = 0)
    (hoff : s.off = 0) (hheader : header.length + 1 = s.cfg.hdrLen.toNat) (hlen : payload.length ≤ l.toNat) :
    ∃ u, forBytes execRxByte (header ++ l :: payload) s = .next u ∧
      u = { s with sum := s.sum + sum8 (header ++ l :: payload), hpos := BitVec.ofNat 2 header.length,
                   cnt := l - BitVec.ofNat 8 payload.length, off := BitVec.ofNat 8 payload.length,
                   st := bodyPhase (l.toNat - payload.length), buf := u.buf } ∧
      ∀ k, readBuf u k = if k < s.blen.toNat then (payload[k]?).or (readBuf s k) else readBuf s k := by
  have hu := forBytes_header header s hs (by simp [hpos]; omega)
  rw [hpos, zero_add] at hu
  obtain ⟨v, hv, hveq, hread⟩ := forBytes_body (l := l) (payload := payload)
    (s := { s with sum := s.sum + sum8 header, hpos := BitVec.ofNat 2 header.length }) hs
    (hpos_eq_last_iff.mpr (lastPos_of_header hheader)) hoff hlen
  refine ⟨v, ?_, hveq.trans ?_, hread⟩
  · rw [forBytes_append, hu, andThen_of_next, hv]
  · simp only [sum8_append, BitVec.add_assoc]

/-- A whole frame, its checksum byte `x`, and whatever follows, from the first header byte on. -/
theorem forBytes_frame {s : State} {header payload : List Byte} {l : Byte} (x : Byte) (tail : List Byte)
    (hs : s.st = .header) (hpos : s.hpos = 0) (hoff : s.off = 0) (hheader : header.length + 1 = s.cfg.hdrLen.toNat)
    (hlen : payload.length = l.toNat) :
    ∃ u, forBytes execRxByte (header ++ l :: payload ++ x :: tail) s = .next u ∧
      u = { s with sum := s.sum + sum8 (header ++ l :: payload), hpos := BitVec.ofNat 2 header.length, cnt := 0, off := l,
                   st := .done, vd := if x = s.sum + sum8 (header ++ l :: payload) then .ok else .sumErr,
                   buf := u.buf } ∧
      ∀ k, readBuf u k =
        if k < s.blen.toNat then
          if x = s.sum + sum8 (header ++ l :: payload) then (payload[k]?).or (readBuf s k) else some 0
        else readBuf s k := by
  obtain ⟨u, hu, hueq, hreadu⟩ := forBytes_headerAndBody hs hpos hoff hheader hlen.le
  have hl : BitVec.ofNat 8 payload.length = l := by rw [hlen, BitVec.ofNat_toNat, BitVec.setWidth_eq]
  have hust : u.st = .checksum := by rw [hueq]; simp [hlen, bodyPhase]
  have husum : u.sum = s.sum + sum8 (header ++ l :: payload) := by rw [hueq]
  have hublen : u.blen = s.blen := by rw [hueq]
  obtain ⟨v, hv, hveq, hreadv⟩ := execRxByte_checksum x hust
  have hvst : v.st = .done := by rw [hveq]
  refine ⟨v, ?_, hveq.trans ?_, fun k => ?_⟩
  · rw [forBytes_append, hu, andThen_of_next, forBytes_cons, hv, andThen_of_next, forBytes_dropped tail (.inr hvst)]
  · rw [husum, hueq]
    simp only [hl, sub_self]
  · rw [hreadv, hreadu, husum, hublen]
    by_cases hk : k < s.blen.toNat <;> by_cases hx : x = s.sum + sum8 (header ++ l :: payload) <;> simp [hk, hx]

/-! ### After arming -/

/-- The bytes of a response received by a decoder armed in `IDLE`. -/
theorem runScript_armed {s : State} {n : Byte} (bytes : List Byte) (hs : s.st = .idle) (hn : 1 ≤ n.toNat) :
    runScript (.decArm n :: bytes.map .rxByte) s = forBytes execRxByte bytes (arm n s) := by
  have harm : exec (.decArm n) s = .next (arm n s) := (Completes.arm hs (by bv_omega)).exec_eq
  rw [runScript_cons, harm, andThen_of_next, runScript_map]
  rfl

theorem activeBytes_of_activeZero {t : State} (h : activeZero t) : activeBytes t = List.replicate t.blen.toNat (some 0) := by
  rw [activeBytes_eq (n := t.blen) (bs := List.replicate t.blen.toNat 0) rfl (by simp), List.map_replicate]
  intro k hk
  rw [h k hk, List.getElem?_replicate, if_pos hk]

/-- Payload bytes over zeroed active bytes stand there padded. -/
theorem activeBytes_of_payload {s t : State} {payload : List Byte} (hs : activeZero s) (hblen : t.blen = s.blen)
    (hread : ∀ k < s.blen.toNat, readBuf t k = (payload[k]?).or (readBuf s k)) :
    activeBytes t = (padded s.blen.toNat payload).map some := by
  refine activeBytes_eq hblen (padded_length _ _) fun k hk => ?_
  rw [hread k hk, hs k hk, padded_getElem? payload hk, List.getD_eq_getElem?_getD]
  cases payload[k]? <;> rfl

/-- Bytes that reach the length byte: the header before it, the length, and the rest. -/
theorem split_at_length {h : Nat} {bytes : List Byte} (hh : 1 ≤ h) (hlen : h ≤ bytes.length) :
    ∃ header l rest, bytes = header ++ l :: rest ∧ header.length + 1 = h := by
  refine ⟨bytes.take (h - 1), bytes[h - 1], bytes.drop h, ?_, by simp; omega⟩
  conv_lhs => rw [← List.take_append_drop (h - 1) bytes, List.drop_eq_getElem_cons (by omega)]
  rw [show h - 1 + 1 = h by omega]

/-- Fewer bytes than the header has. -/
theorem armed_header (s : State) (n : Byte) {bytes : List Byte} (hlen : bytes.length < s.cfg.hdrLen.toNat) :
    ∃ t, forBytes execRxByte bytes (arm n s) = .next t ∧ t.blen = n ∧ t.st = .header ∧ t.hpos.toNat = bytes.length ∧
      t.cnt = 0 ∧ t.off = 0 ∧ t.sum = sum8 bytes ∧ t.vd = .none ∧ activeBytes t = List.replicate n.toNat (some 0) := by
  have hbounds := hdrLen_bounds s.cfg.hdrLen
  have ht := forBytes_header bytes (arm n s) rfl (by simp; omega)
  refine ⟨_, ht, rfl, rfl, ?_, rfl, rfl, by simp, rfl, activeBytes_of_activeZero (arm_activeZero n s)⟩
  simp only [arm_hpos, zero_add, BitVec.toNat_ofNat]
  exact Nat.mod_eq_of_lt (by omega)

/-- A whole header and `rest`, no longer than the payload it announces (spec/10_state.md R33 (d), (e), (g)). -/
theorem armed_body (s : State) (n l : Byte) {header rest : List Byte}
    (hheader : header.length + 1 = s.cfg.hdrLen.toNat) (hlen : rest.length ≤ l.toNat) :
    ∃ t, forBytes execRxByte (header ++ l :: rest) (arm n s) = .next t ∧ t.blen = n ∧
      t.hpos.toNat + 1 = s.cfg.hdrLen.toNat ∧ t.st = bodyPhase (l.toNat - rest.length) ∧ t.off.toNat = rest.length ∧
      t.off.toNat + t.cnt.toNat = l.toNat ∧ t.sum = sum8 (header ++ l :: rest) ∧ t.vd = .none ∧
      activeBytes t = (padded n.toNat rest).map some := by
  obtain ⟨t, ht, hteq, hread⟩ := forBytes_headerAndBody (s := arm n s) rfl rfl rfl hheader hlen
  have hbytes : activeBytes t = (padded n.toNat rest).map some :=
    activeBytes_of_payload (arm_activeZero n s) (by rw [hteq]) fun k hk => (hread k).trans (if_pos hk)
  refine ⟨t, ht, ?_, ?_, ?_, ?_, ?_, ?_, ?_, hbytes⟩ <;> rw [hteq]
  · rfl
  · exact lastPos_of_header hheader
  · simp; omega
  · simp only; bv_omega
  · simp
  · rfl

/-- A whole frame, its checksum byte `x`, and whatever follows (spec/10_state.md R33 (f), (i)). -/
theorem armed_frame (s : State) (n l x : Byte) {header payload : List Byte} (tail : List Byte)
    (hheader : header.length + 1 = s.cfg.hdrLen.toNat) (hlen : payload.length = l.toNat) :
    ∃ t, forBytes execRxByte (header ++ l :: payload ++ x :: tail) (arm n s) = .next t ∧ t.blen = n ∧
      t.hpos.toNat + 1 = s.cfg.hdrLen.toNat ∧ t.st = .done ∧ t.off = l ∧ t.cnt = 0 ∧
      t.sum = sum8 (header ++ l :: payload) ∧
      (t.vd, activeBytes t) = if x = t.sum then (.ok, (padded n.toNat payload).map some)
        else (.sumErr, List.replicate n.toNat (some 0)) := by
  obtain ⟨t, ht, hteq, hread⟩ := forBytes_frame (s := arm n s) x tail rfl rfl rfl hheader hlen
  simp only [arm_sum, zero_add, arm_blen] at hteq hread
  have hblen : t.blen = n := by rw [hteq]
  have hsum : t.sum = sum8 (header ++ l :: payload) := by rw [hteq]
  have hvd : t.vd = if x = t.sum then .ok else .sumErr := by rw [hsum, hteq]
  refine ⟨t, ht, hblen, ?_, by rw [hteq], by rw [hteq], by rw [hteq], hsum, ?_⟩
  · rw [hteq]
    exact lastPos_of_header hheader
  · rw [← hsum] at hread
    by_cases hx : x = t.sum
    · have hbytes : activeBytes t = (padded n.toNat payload).map some :=
        activeBytes_of_payload (arm_activeZero n s) hblen fun k hk => by
          rw [hread, if_pos (show k < n.toNat from hk), if_pos hx]
      rw [hvd, if_pos hx, if_pos hx, hbytes]
    · have hzero : activeZero t := fun k hk => by rw [hread, if_pos (hblen ▸ hk), if_neg hx]
      rw [hvd, if_neg hx, if_neg hx, activeBytes_of_activeZero hzero, hblen]

/-- Settles O27, by where the bytes end: in the header, in the payload or before the checksum, behind the checksum byte. -/
theorem decoderStateFollowsBytes : Obligations.DecoderStateFollowsBytes := by
  intro s n bytes hs hn
  rw [runScript_armed bytes hs hn]
  have hbounds := hdrLen_bounds s.cfg.hdrLen
  by_cases hshort : bytes.length < s.cfg.hdrLen.toNat
  · obtain ⟨t, ht, hblen, hclauses⟩ := armed_header s n hshort
    refine ⟨t, ht, hblen, fun _ => hclauses, fun l hl => ?_⟩
    have := (List.getElem?_eq_some_iff.mp hl).1
    omega
  obtain ⟨header, l, rest, rfl, hheader⟩ := split_at_length (by omega) (not_lt.mp hshort)
  have hlength : (header ++ l :: rest).length = s.cfg.hdrLen.toNat + rest.length := by simp; omega
  have hl : (header ++ l :: rest)[s.cfg.hdrLen.toNat - 1]? = some l := by
    rw [← hheader]
    simp
  have hdrop : (header ++ l :: rest).drop s.cfg.hdrLen.toNat = rest := by
    rw [← hheader]
    simp
  rw [hlength, hl, hdrop]
  by_cases hbody : rest.length ≤ l.toNat
  · obtain ⟨t, ht, hblen, hhpos, hst, hoff, hcnt, hsum, hvd, hbytes⟩ := armed_body s n l hheader hbody
    refine ⟨t, ht, hblen, by omega, fun l' hl' => ?_⟩
    obtain rfl : l = l' := by simpa using hl'
    refine ⟨hhpos, fun hlt => ?_, fun heq => ?_, by omega⟩
    · exact ⟨hst.trans (bodyPhase_of_pos (by omega)), by omega, hcnt, hsum, hvd, hbytes⟩
    · have hst' : t.st = .checksum := by rw [hst, show l.toNat - rest.length = 0 by omega]; rfl
      exact ⟨hst', by bv_omega, by bv_omega, hsum, hvd, hbytes⟩
  · obtain ⟨payload, x, tail, rfl, hpayload⟩ := split_at_length (h := l.toNat + 1) (bytes := rest) (by omega) (by omega)
    replace hpayload : payload.length = l.toNat := by omega
    obtain ⟨t, ht, hblen, hhpos, hst, hoff, hcnt, hsum, hverdict⟩ := armed_frame s n l x tail hheader hpayload
    have hframe : header ++ l :: (payload ++ x :: tail) = (header ++ l :: payload) ++ x :: tail := by simp
    have hend : (header ++ l :: payload).length = s.cfg.hdrLen.toNat + l.toNat := by simp; omega
    have htake : (header ++ l :: payload ++ x :: tail).take (s.cfg.hdrLen.toNat + l.toNat) = header ++ l :: payload := by
      rw [← hend, List.take_left]
    have hx : (header ++ l :: payload ++ x :: tail)[s.cfg.hdrLen.toNat + l.toNat]? = some x := by
      rw [← hend]
      simp
    rw [hframe]
    refine ⟨t, ht, hblen, by omega, fun l' hl' => ?_⟩
    obtain rfl : l = l' := by simpa using hl'
    refine ⟨hhpos, by omega, by omega, fun _ => ⟨hst, hoff, hcnt, ?_, ?_⟩⟩
    · rw [htake, hsum]
    · rw [hx, ← hpayload, List.take_left, hverdict]
      simp

end Sys2Proof.Machine
end

section
/-!
SUPPORT. Two runs of one transaction from two idle states (spec/10_state.md R32): what the encoder and the decoder do after
their first event depends on nothing that stood in the state before it.
-/

namespace Sys2Proof.Machine

/-! ### The encoder -/

/-- Two runs of the encoder agree: on the checksum, the bytes owed, the phase, and on what each has emitted behind the output
`tx₁`, `tx₂` it began with. -/
def SameEncoding (tx₁ tx₂ : List Byte) (s₁ s₂ : State) : Prop :=
  s₁.sum = s₂.sum ∧ s₁.rem = s₂.rem ∧ s₁.st = s₂.st ∧ ∃ bs, s₁.tx = tx₁ ++ bs ∧ s₂.tx = tx₂ ++ bs

section
variable {tx₁ tx₂ : List Byte} {s₁ s₂ : State}

theorem SameEncoding.emitSummed (b : Byte) (h : SameEncoding tx₁ tx₂ s₁ s₂) :
    SameEncoding tx₁ tx₂ (emitSummed b s₁) (emitSummed b s₂) := by
  obtain ⟨hsum, hrem, hst, bs, htx₁, htx₂⟩ := h
  exact ⟨by simp [hsum], hrem, hst, bs ++ [b], by simp [htx₁], by simp [htx₂]⟩

theorem SameEncoding.setRem (r : Byte) (h : SameEncoding tx₁ tx₂ s₁ s₂) :
    SameEncoding tx₁ tx₂ { s₁ with rem := r } { s₂ with rem := r } := by
  obtain ⟨hsum, -, hst, hemitted⟩ := h
  exact ⟨hsum, rfl, hst, hemitted⟩

theorem SameEncoding.closeFrame (h : SameEncoding tx₁ tx₂ s₁ s₂) :
    SameEncoding tx₁ tx₂ (closeFrameIfComplete s₁) (closeFrameIfComplete s₂) := by
  obtain ⟨hsum, hrem, -, bs, htx₁, htx₂⟩ := h
  by_cases hr : s₁.rem = 0
  · rw [closeFrame_complete hr, closeFrame_complete (hrem ▸ hr)]
    exact ⟨hsum, hrem, rfl, bs ++ [s₁.sum], by simp [htx₁], by simp [htx₂, hsum]⟩
  · rw [closeFrame_open hr, closeFrame_open (hrem ▸ hr)]
    exact ⟨hsum, hrem, rfl, bs, htx₁, htx₂⟩

end

/-- `ENC.START` clears the sum and sets the bytes owed, so two idle blocks do the same from it on. -/
theorem execEncStart_same {s₁ s₂ t₁ t₂ : State} {c l : Byte} (h₁ : execEncStart c l s₁ = .next t₁)
    (h₂ : execEncStart c l s₂ = .next t₂) : SameEncoding s₁.tx s₂.tx t₁ t₂ := by
  obtain ⟨hs₁, heq₁⟩ := admitIn_one_next.mp h₁
  obtain ⟨hs₂, heq₂⟩ := admitIn_one_next.mp h₂
  cases heq₁
  cases heq₂
  have opened : SameEncoding s₁.tx s₂.tx { emitHeader c l s₁ with rem := l } { emitHeader c l s₂ with rem := l } :=
    ⟨rfl, rfl, hs₁.trans hs₂.symm, [startMarker, c, l], by simp [emitHeader], by simp [emitHeader]⟩
  exact opened.closeFrame

/-- `ENC.DATA` keeps the agreement. -/
theorem execEncData_same {tx₁ tx₂ : List Byte} (b : Byte) (s₁ s₂ t₁ : State) (h : SameEncoding tx₁ tx₂ s₁ s₂)
    (h₁ : execEncData b s₁ = .next t₁) : ∃ t₂, execEncData b s₂ = .next t₂ ∧ SameEncoding tx₁ tx₂ t₁ t₂ := by
  obtain ⟨hs₁, heq₁⟩ := admitIn_one_next.mp h₁
  cases heq₁
  obtain ⟨-, hrem, hst, -⟩ := id h
  refine ⟨_, admitIn_one_next.mpr ⟨hst ▸ hs₁, rfl⟩, ?_⟩
  rw [hrem]
  exact ((h.emitSummed b).setRem (s₂.rem - 1)).closeFrame

theorem sendFrame_same {s₁ s₂ t₁ t₂ : State} {c : Byte} {payload : List Byte} (h₁ : sendFrame c payload s₁ = .next t₁)
    (h₂ : sendFrame c payload s₂ = .next t₂) : SameEncoding s₁.tx s₂.tx t₁ t₂ := by
  obtain ⟨u₁, hu₁, hrun₁⟩ := andThen_next.mp h₁
  obtain ⟨u₂, hu₂, hrun₂⟩ := andThen_next.mp h₂
  obtain ⟨t₂', hrun₂', hsame⟩ := forBytes_simulates execEncData_same payload u₁ u₂ t₁ (execEncStart_same hu₁ hu₂) hrun₁
  obtain rfl : t₂' = t₂ := by simpa [hrun₂'] using hrun₂
  exact hsame

/-! ### The decoder -/

/-- Two decoders agree: on the decoder's registers, the phase, the verdict and the active bytes. -/
def SameDecoding (s₁ s₂ : State) : Prop :=
  s₁.sum = s₂.sum ∧ s₁.cnt = s₂.cnt ∧ s₁.off = s₂.off ∧ s₁.hpos = s₂.hpos ∧ s₁.blen = s₂.blen ∧ s₁.st = s₂.st ∧
    s₁.vd = s₂.vd ∧ activeBytes s₁ = activeBytes s₂

/-- Two idle blocks of one header length, armed alike, agree after any bytes: each clause of `decoderStateFollowsBytes` gives
both the same registers and active bytes. -/
theorem armedRun_same {s₁ s₂ t₁ t₂ : State} {n : Byte} {bytes : List Byte} (hs₁ : s₁.st = .idle) (hs₂ : s₂.st = .idle)
    (hcfg : s₁.cfg = s₂.cfg) (hn : 1 ≤ n.toNat) (h₁ : runScript (.decArm n :: bytes.map .rxByte) s₁ = .next t₁)
    (h₂ : runScript (.decArm n :: bytes.map .rxByte) s₂ = .next t₂) : SameDecoding t₁ t₂ := by
  obtain ⟨u₁, hu₁, hblen₁, hshort₁, hlong₁⟩ := decoderStateFollowsBytes s₁ n bytes hs₁ hn
  obtain ⟨u₂, hu₂, hblen₂, hshort₂, hlong₂⟩ := decoderStateFollowsBytes s₂ n bytes hs₂ hn
  obtain rfl : u₁ = t₁ := by simpa [hu₁] using h₁
  obtain rfl : u₂ = t₂ := by simpa [hu₂] using h₂
  rw [← hcfg] at hshort₂ hlong₂
  have hblen := hblen₁.trans hblen₂.symm
  by_cases hshort : bytes.length < s₁.cfg.hdrLen.toNat
  · obtain ⟨hst₁, hhpos₁, hcnt₁, hoff₁, hsum₁, hvd₁, hbytes₁⟩ := hshort₁ hshort
    obtain ⟨hst₂, hhpos₂, hcnt₂, hoff₂, hsum₂, hvd₂, hbytes₂⟩ := hshort₂ hshort
    exact ⟨hsum₁.trans hsum₂.symm, hcnt₁.trans hcnt₂.symm, hoff₁.trans hoff₂.symm,
      BitVec.eq_of_toNat_eq (hhpos₁.trans hhpos₂.symm), hblen, hst₁.trans hst₂.symm, hvd₁.trans hvd₂.symm,
      hbytes₁.trans hbytes₂.symm⟩
  have hbounds := hdrLen_bounds s₁.cfg.hdrLen
  have hl := List.getElem?_eq_getElem (l := bytes) (i := s₁.cfg.hdrLen.toNat - 1) (by omega)
  obtain ⟨hhpos₁, hpayload₁, hchecksum₁, hdone₁⟩ := hlong₁ _ hl
  obtain ⟨hhpos₂, hpayload₂, hchecksum₂, hdone₂⟩ := hlong₂ _ hl
  have hhpos : u₁.hpos = u₂.hpos := BitVec.eq_of_toNat_eq (by omega)
  rcases Nat.lt_trichotomy bytes.length (s₁.cfg.hdrLen.toNat + (bytes[s₁.cfg.hdrLen.toNat - 1]).toNat) with hlt | heq | hgt
  · obtain ⟨hst₁, hoff₁, hcnt₁, hsum₁, hvd₁, hbytes₁⟩ := hpayload₁ hlt
    obtain ⟨hst₂, hoff₂, hcnt₂, hsum₂, hvd₂, hbytes₂⟩ := hpayload₂ hlt
    exact ⟨hsum₁.trans hsum₂.symm, BitVec.eq_of_toNat_eq (by omega), BitVec.eq_of_toNat_eq (hoff₁.trans hoff₂.symm), hhpos,
      hblen, hst₁.trans hst₂.symm, hvd₁.trans hvd₂.symm, hbytes₁.trans hbytes₂.symm⟩
  · obtain ⟨hst₁, hoff₁, hcnt₁, hsum₁, hvd₁, hbytes₁⟩ := hchecksum₁ heq
    obtain ⟨hst₂, hoff₂, hcnt₂, hsum₂, hvd₂, hbytes₂⟩ := hchecksum₂ heq
    exact ⟨hsum₁.trans hsum₂.symm, hcnt₁.trans hcnt₂.symm, hoff₁.trans hoff₂.symm, hhpos, hblen, hst₁.trans hst₂.symm,
      hvd₁.trans hvd₂.symm, hbytes₁.trans hbytes₂.symm⟩
  · obtain ⟨hst₁, hoff₁, hcnt₁, hsum₁, hverdict₁⟩ := hdone₁ hgt
    obtain ⟨hst₂, hoff₂, hcnt₂, hsum₂, hverdict₂⟩ := hdone₂ hgt
    have hsum := hsum₁.trans hsum₂.symm
    rw [← hsum, ← hverdict₁, Prod.mk.injEq] at hverdict₂
    obtain ⟨hvd, hbytes⟩ := hverdict₂
    exact ⟨hsum, hcnt₁.trans hcnt₂.symm, hoff₁.trans hoff₂.symm, hhpos, hblen, hst₁.trans hst₂.symm, hvd.symm, hbytes.symm⟩

/-- `RX.TMO` keeps the agreement. -/
theorem rxTmo_same {s₁ s₂ t₁ t₂ : State} (h : SameDecoding s₁ s₂) (h₁ : exec .rxTmo s₁ = .next t₁)
    (h₂ : exec .rxTmo s₂ = .next t₂) : SameDecoding t₁ t₂ := by
  obtain ⟨hsum, hcnt, hoff, hhpos, hblen, hst, hvd, hbytes⟩ := h
  cases exec_completes rfl h₁ with
  | timeout hs =>
    obtain rfl : raise .timeout s₂ = t₂ := by simpa [(Completes.timeout (hst ▸ hs)).exec_eq] using h₂
    refine ⟨hsum, hcnt, hoff, hhpos, hblen, rfl, rfl, ?_⟩
    rw [activeBytes_of_activeZero (raise_activeZero _ _), activeBytes_of_activeZero (raise_activeZero _ _), raise_blen,
      raise_blen, hblen]
  | finish hs =>
    obtain rfl : goto .idle s₂ = t₂ := by simpa [(Completes.finish (hst ▸ hs)).exec_eq] using h₂
    exact ⟨hsum, hcnt, hoff, hhpos, hblen, rfl, hvd, hbytes⟩
  | timeoutIdle hs =>
    obtain rfl : s₂ = t₂ := by simpa [(Completes.timeoutIdle (hst ▸ hs)).exec_eq] using h₂
    exact ⟨hsum, hcnt, hoff, hhpos, hblen, hst, hvd, hbytes⟩

theorem recvScript_next {s t : State} {n : Byte} {bytes : List Byte} :
    runScript (recvScript n bytes) s = .next t ↔
      ∃ u, runScript (.decArm n :: bytes.map .rxByte) s = .next u ∧ exec .rxTmo u = .next t := by
  rw [recvScript, ← List.cons_append, runScript_append, andThen_next]
  simp [runScript_cons, runScript_nil, andThen_next]

/-- Settles O52: the first event of a transaction sets all that its later events read. -/
theorem noStateFromEarlierTransaction : Obligations.NoStateFromEarlierTransaction := by
  intro s₁ s₂ hs₁ hs₂ hcfg
  refine ⟨fun c l t₁ t₂ => execEncStart_same, fun c payload t₁ t₂ _ h₁ h₂ => ?_, fun n bytes t₁ t₂ hn h₁ h₂ => ?_⟩
  · rw [runScript_sendScript] at h₁ h₂
    exact sendFrame_same h₁ h₂
  · obtain ⟨u₁, hu₁, ht₁⟩ := recvScript_next.mp h₁
    obtain ⟨u₂, hu₂, ht₂⟩ := recvScript_next.mp h₂
    exact rxTmo_same (armedRun_same hs₁ hs₂ hcfg hn hu₁ hu₂) ht₁ ht₂

end Sys2Proof.Machine
end

section
/-!
SUPPORT. What an operation does to the response buffer (spec/20_memory.md R41), said once, and the two statements about it.
-/

namespace Sys2Proof.Machine

/-- The buffer is left as it is, or written in one of the ways of spec/20_memory.md R41: zeroed by an arming, given a payload
byte, or zeroed by one of the two failures of the decoder. -/
theorem Completes.buf {i : Instr} {s t : State} (h : Completes i s t) :
    t.buf = s.buf ∨
    (∃ n, i = .decArm n ∧ t.buf = (zeroBuf (countOf n) s).buf) ∨
    (∃ b, i = .rxByte b ∧ s.st = .payload ∧ t.buf = (storePayload b s).buf) ∨
    (∃ b, i = .rxByte b ∧ s.st = .checksum ∧ b ≠ s.sum ∧ t.buf = (zeroFill s).buf) ∨
    (i = .rxTmo ∧ (s.st = .header ∨ s.st = .payload ∨ s.st = .checksum) ∧ t.buf = (zeroFill s).buf) := by
  cases h with
  | arm hs hn => exact .inr (.inl ⟨_, rfl, rfl⟩)
  | payloadByte b hs => exact .inr (.inr (.inl ⟨b, rfl, hs, rfl⟩))
  | sumDiffers hs hb => exact .inr (.inr (.inr (.inl ⟨_, rfl, hs, hb, rfl⟩)))
  | timeout hs => exact .inr (.inr (.inr (.inr ⟨rfl, hs, rfl⟩)))
  | _ => exact .inl rfl

/-! ### The canonical form -/

theorem Completes.keeps_wf {i : Instr} {s t : State} (hc : Completes i s t) (h : s.buf.wf = true) : t.buf.wf = true := by
  rcases hc.buf with hbuf | ⟨n, -, hbuf⟩ | ⟨b, -, -, hbuf⟩ | ⟨b, -, -, -, hbuf⟩ | ⟨-, -, hbuf⟩ <;> rw [hbuf]
  · exact h
  · exact zeroBuf_wf s n h
  · exact storePayload_wf s b h
  · exact zeroFill_wf s h
  · exact zeroFill_wf s h

/-- Settles O46: each write of the buffer keeps the canonical form, and a wire row writes as its events do. -/
theorem canonicalBufferKept : Obligations.CanonicalBufferKept := fun i s t h ht =>
  exec_relates (R := fun s t => s.buf.wf = true → t.buf.wf = true) (fun _ h => h) (fun _ _ _ hsu hut h => hut (hsu h))
    (fun _ _ _ hc => hc.keeps_wf) i s t ht h

/-! ### The bytes that change -/

/-- Zeroing changes only bytes below its bound, to zero. -/
theorem zeroBuf_changes {s t : State} {n k : Nat} (hbuf : t.buf = (zeroBuf n s).buf) (hne : readBuf t k ≠ readBuf s k) :
    k < n ∧ readBuf t k = some 0 := by
  rw [readBuf_congr hbuf, readBuf_zeroBuf] at hne ⊢
  by_cases hk : k < n
  · exact ⟨hk, if_pos hk⟩
  · exact absurd (if_neg hk) hne

/-- A payload byte changes only the byte at its slot. -/
theorem storePayload_changes {s t : State} {b : Byte} {k : Nat} (hbuf : t.buf = (storePayload b s).buf)
    (hne : readBuf t k ≠ readBuf s k) : payloadSlot s = some k ∧ readBuf t k = some b := by
  rw [readBuf_congr hbuf, readBuf_storePayload] at hne ⊢
  by_cases hk : payloadSlot s = some k
  · exact ⟨hk, if_pos hk⟩
  · exact absurd (if_neg hk) hne

/-- Settles O50: each write of the buffer changes its own bytes only. -/
theorem bufferAccessors : Obligations.BufferAccessors := by
  intro i s t k hi ht hne
  rcases (exec_completes (isWireRow_of_isEvent hi) ht).buf with
    hbuf | ⟨n, rfl, hbuf⟩ | ⟨b, rfl, hs, hbuf⟩ | ⟨b, rfl, hs, hb, hbuf⟩ | ⟨rfl, hs, hbuf⟩
  · exact absurd (readBuf_congr hbuf k) hne
  · exact .inl ⟨n, rfl, zeroBuf_changes hbuf hne⟩
  · exact .inr (.inl ⟨b, rfl, hs, storePayload_changes hbuf hne⟩)
  · exact .inr (.inr (.inl ⟨b, rfl, hs, hb, zeroBuf_changes hbuf hne⟩))
  · exact .inr (.inr (.inr ⟨rfl, hs, zeroBuf_changes hbuf hne⟩))

end Sys2Proof.Machine
end

section
/-!
SUPPORT. The event word, field by field, and the two wire frames, read back from their own bits (spec/30_encoding.md R60,
R61, R64 to R68).
-/

namespace Sys2Proof

open Sys2Proof.Machine

/-! ### The fields of an event word -/

theorem fields_of_toNat {w : EventWord} {op a b : Nat} (ha : a < 256) (hb : b < 256)
    (hw : w.toNat = op * 65536 + a * 256 + b) :
    (opField w).toNat = op ∧ (aField w).toNat = a ∧ (bField w).toNat = b := by
  simp only [opField, aField, bField, BitVec.extractLsb'_toNat, Nat.shiftRight_eq_div_pow, hw]
  omega

section
variable (op : BitVec 4) (a b : Byte)

theorem eventWord_toNat : (eventWord op a b).toNat = op.toNat * 65536 + a.toNat * 256 + b.toNat := by
  have happend {m n : Nat} (x : BitVec m) (y : BitVec n) : (x ++ y).toNat = x.toNat * 2 ^ n + y.toNat := by
    rw [BitVec.toNat_append, ← Nat.shiftLeft_add_eq_or_of_lt y.isLt, Nat.shiftLeft_eq]
  rw [eventWord, happend, happend]
  omega

theorem fields_eventWord :
    opField (eventWord op a b) = op ∧ aField (eventWord op a b) = a ∧ bField (eventWord op a b) = b := by
  obtain ⟨hop, ha, hb⟩ := fields_of_toNat a.isLt b.isLt (eventWord_toNat op a b)
  exact ⟨BitVec.eq_of_toNat_eq hop, BitVec.eq_of_toNat_eq ha, BitVec.eq_of_toNat_eq hb⟩

@[simp] theorem opField_eventWord : opField (eventWord op a b) = op := (fields_eventWord op a b).1
@[simp] theorem aField_eventWord : aField (eventWord op a b) = a := (fields_eventWord op a b).2.1
@[simp] theorem bField_eventWord : bField (eventWord op a b) = b := (fields_eventWord op a b).2.2

end

/-! ### The operation of an event word -/

/-- A word of the reserved space keeps its op code and both operand bytes (R68). -/
theorem decodeEvent_reserved {w : EventWord} (h : 8 ≤ (opField w).toNat) :
    decodeEvent w = .reserved (opField w) (aField w) (bField w) := by
  unfold decodeEvent
  split
  case h_9 => rfl
  all_goals omega

/-- A word outside the reserved space is read as one of the eight operations. -/
theorem decodeEvent_ne_reserved {w : EventWord} (h : (opField w).toNat < 8) (op : BitVec 4) (a b : Byte) :
    decodeEvent w ≠ .reserved op a b := by
  unfold decodeEvent
  split
  case h_9 => simp only [imp_false] at *; omega
  all_goals nofun

/-- The event word an instruction is written as reads as that instruction. -/
theorem decodeEvent_of_encode {i : Instr} {w : EventWord} (hi : i.wf = true) (h : encode i = some (.event w)) :
    decodeEvent w = i := by
  cases i with
  | reserved op a b =>
    obtain rfl : eventWord op a b = w := by simpa [encode] using h
    rw [decodeEvent_reserved (by simpa [Instr.wf] using hi)]
    simp
  | accClr | accAdd | accEq | reqFrame | rspFrame | cmdSetVolume => simp [encode] at h
  | _ =>
    simp only [encode, Option.some.injEq, Code.event.injEq] at h
    subst h
    simp [decodeEvent]

/-- The word with the same operation, and zeros in the fields that the operation does not use (R64, R66). -/
def zeroUnused (w : EventWord) : EventWord :=
  eventWord (opField w) (if (opField w).toNat ∈ [1, 2, 3, 4, 6] then aField w else 0)
    (if (opField w).toNat = 1 then bField w else 0)

/-- An assembler writes the operation that a word selects with zeros in the unused fields (R64). -/
theorem encode_decodeEvent {w : EventWord} (h : (opField w).toNat < 8) :
    encode (decodeEvent w) = some (.event (zeroUnused w)) := by
  have opField_eq {n : Nat} (hn : (opField w).toNat = n) : opField w = BitVec.ofNat 4 n := by
    rw [← hn, BitVec.ofNat_toNat, BitVec.setWidth_eq]
  unfold decodeEvent
  split
  case h_9 => simp only [imp_false] at *; omega
  all_goals
    rename_i hn
    simp [encode, zeroUnused, opField_eq hn]

/-- Settles O6: the reading of a reserved word, whose one meaning is a refusal. -/
theorem reservedRefused : Obligations.ReservedRefused :=
  ⟨fun _ _ _ _ => rfl, fun _ h => ⟨_, _, decodeEvent_reserved h⟩, fun _ => decodeEvent_ne_reserved,
    fun _ _ h => by rw [decodeEvent_reserved h]; rfl⟩

/-- Settles O56: words that agree in all that the operation uses are written as one word, and that word is read back. -/
theorem unusedFieldsIgnored : Obligations.UnusedFieldsIgnored := by
  refine ⟨fun _ _ _ _ _ => fields_of_toNat, fun w w' hop h ha hb => ?_, fun w h =>
    ⟨zeroUnused w, encode_decodeEvent h, by simp [zeroUnused], by simp [zeroUnused], by simp [zeroUnused]⟩⟩
  have hzero : zeroUnused w = zeroUnused w' := by
    unfold zeroUnused
    rw [← hop]
    congr 1
    · exact if_ctx_congr .rfl ha fun _ => rfl
    · exact if_ctx_congr .rfl hb fun _ => rfl
  have hback {v : EventWord} (hv : (opField v).toNat < 8) : decodeEvent (zeroUnused v) = decodeEvent v :=
    decodeEvent_of_encode (Laws.EventDecode.decodeEvent_wf v).1 (encode_decodeEvent hv)
  rw [← hback h, hzero, hback (hop ▸ h)]

/-! ### The wire frames -/

/-- A request frame is read back from its bytes (R60). -/
theorem decodeRequest_requestBytes (c : Byte) {payload : List Byte} (h : payload.length ≤ 255) :
    decodeRequest (requestBytes c payload) = .ok (requestInstr c payload) := by
  simp [decodeRequest, requestBytes, requestBody, lengthByte_toNat h]

/-- A response frame is read back from its bytes, whatever its checksum byte (R61). -/
theorem decodeResponse_responseBytes {h : HdrLen} {header payload : List Byte} (x : Byte)
    (hheader : headerFits h header = true) (hpayload : payload.length ≤ 255) :
    decodeResponse h (responseBytes header payload x) = .ok (.rspFrame header payload x) := by
  have hlen : h.toNat - 1 = header.length := by rw [← headerFits_iff.mp hheader]; rfl
  simp [decodeResponse, responseBytes, responseBody, hlen, lengthByte_toNat hpayload]

/-- Settles O54, by the kind of code: an event word, a request frame, a response frame, none. -/
theorem decodeEncodeRoundTrip : Obligations.DecodeEncodeRoundTrip := by
  refine ⟨fun h i code hwf hfits hcode => ?_, fun i => by cases i <;> simp [encode]⟩
  cases i with
  | accClr | accAdd | accEq => cases hcode
  | reqFrame c payload =>
    cases hcode
    exact decodeRequest_requestBytes c (by simpa [Instr.wf, payloadFits] using hwf)
  | cmdSetVolume v =>
    cases hcode
    exact decodeRequest_requestBytes setVolumeCommand (payload := [v]) (by simp)
  | rspFrame header payload x =>
    cases hcode
    simp only [Instr.wf, payloadFits, Bool.and_eq_true, decide_eq_true_eq] at hwf
    obtain ⟨-, hpayload⟩ := hwf
    exact decodeResponse_responseBytes x hfits hpayload
  | _ =>
    cases hcode
    exact congrArg Except.ok (decodeEvent_of_encode hwf rfl)

/-- Settles O57: the words of spec/95_test_vectors.md and spec/30_encoding.md R72, evaluated. -/
theorem eventWordsDecode : Obligations.EventWordsDecode := by
  unfold Obligations.EventWordsDecode
  decide

end Sys2Proof
end

section
/-!
SUPPORT. Delivered events: a step performs the oldest, and a run performs them in order (spec/30_encoding.md R63).
-/

namespace Sys2Proof.Machine

/-- Settles O37: the oldest event is taken off the stream. -/
theorem stepRunsDecodedEvent : Obligations.StepRunsDecodedEvent := by
  intro s w rest h
  have htake : takeEvent s = some (w, { s with pending := rest }) := takeEvent_some.mpr ⟨rest, h, rfl⟩
  rw [step, htake]

/-- Settles O38, by induction on the events: the first does the same with more events behind it, and leaves those. -/
theorem runFollowsScript : Obligations.RunFollowsScript := by
  intro ws rest
  induction ws with
  | nil => exact fun _ _ h => h
  | cons w ws ih =>
    intro s t h
    obtain ⟨u, hu, ht⟩ := andThen_next.mp h
    have hpending : u.pending = rest := (configAndStreamUntouched.1 _ _ _ hu).2
    have hexec := exec_redeliver (ws ++ rest) hu
    have hstep : step { s with pending := w :: (ws ++ rest) } = .next { u with pending := ws ++ rest } :=
      (stepRunsDecodedEvent { s with pending := w :: (ws ++ rest) } w (ws ++ rest) rfl).trans hexec
    have hrun : Host.Core.run core ws.length ({ u with pending := ws ++ rest } : State) = .next t :=
      ih u t (by rw [← hpending]; exact ht)
    exact (run_succ ws.length _).trans (andThen_next.mpr ⟨_, hstep, hrun⟩)

end Sys2Proof.Machine
end

section
/-!
SUPPORT. The wire rows as one operation each (notes/assumptions/6.md): what the encoder does with a payload of any length, and
what becomes of a response frame in each phase (spec/30_encoding.md R60, R61).
-/

namespace Sys2Proof.Machine

/-! ### One operation for each byte -/

/-- A phase that refuses every byte refuses a sequence of bytes at the first. -/
theorem forBytes_refused {f : Byte → State → Outcome} {s : State} {r : Refusal} (h : ∀ b, f b s = .refused r)
    {bs : List Byte} (hbs : bs ≠ []) : forBytes f bs s = .refused r := by
  cases bs with
  | nil => contradiction
  | cons b bs => rw [forBytes_cons, h, andThen_of_refused]

/-- Where each byte completes and leads to such a state again, all bytes complete. -/
theorem forBytes_completes {P : State → Prop} {f : Byte → State → Outcome}
    (one : ∀ b s, P s → ∃ t, f b s = .next t ∧ P t) (bs : List Byte) : ∀ s, P s → ∃ t, forBytes f bs s = .next t := by
  induction bs with
  | nil => exact fun s _ => ⟨s, rfl⟩
  | cons b bs ih =>
    intro s hs
    obtain ⟨u, hu, hPu⟩ := one b s hs
    obtain ⟨t, ht⟩ := ih u hPu
    exact ⟨t, andThen_next.mpr ⟨u, hu, ht⟩⟩

/-! ### A request sent -/

/-- As many payload bytes as are owed close the frame with its checksum byte (spec/41_encoder.md R92). -/
theorem forBytes_execEncData (payload : List Byte) : ∀ s : State, s.rem.toNat = payload.length →
    forBytes execEncData payload (closeFrameIfComplete s) = .next
      { s with sum := s.sum + sum8 payload, rem := 0, st := .idle,
               tx := s.tx ++ (payload ++ [s.sum + sum8 payload]) } := by
  induction payload with
  | nil =>
    intro s h
    have hrem : s.rem = 0 := BitVec.eq_of_toNat_eq h
    rw [closeFrame_complete hrem, forBytes_nil]
    simp [sum8, goto, emitSum, emit, hrem]
  | cons b payload ih =>
    intro s h
    rw [List.length_cons] at h
    have hopen : s.rem ≠ 0 := by bv_omega
    have hdata : execEncData b (goto .enc s) =
        .next (closeFrameIfComplete { emitSummed b (goto .enc s) with rem := s.rem - 1 }) := admitIn_of_mem _ (by simp)
    rw [closeFrame_open hopen, forBytes_cons, hdata, andThen_of_next, ih _ (by simp only; bv_omega)]
    simp [sum8, BitVec.add_assoc, goto, emitSummed, emit, accAdd]

/-- A byte more than is owed is refused in `IDLE` (spec/41_encoder.md R94). -/
theorem forBytes_execEncData_refused {payload : List Byte} {s : State} (h : s.rem.toNat < payload.length) :
    forBytes execEncData payload (closeFrameIfComplete s) = .refused (.notAdmitted .idle) := by
  have howed : s.rem.toNat = (payload.take s.rem.toNat).length := by simp; omega
  have hmore : payload.drop s.rem.toNat ≠ [] := by simp; omega
  rw [← List.take_append_drop s.rem.toNat payload, forBytes_append, forBytes_execEncData _ s howed, andThen_of_next]
  exact forBytes_refused (fun b => admitIn_of_not_mem _ (by simp)) hmore

section
variable (c : Byte) {payload : List Byte} {s : State}

/-- In `IDLE` the first event of a request leads to its data events. -/
theorem sendFrame_idle (hs : s.st = .idle) : sendFrame c payload s =
    forBytes execEncData payload
      (closeFrameIfComplete { emitHeader c (lengthByte payload) s with rem := lengthByte payload }) := by
  have hstart : execEncStart c (lengthByte payload) s = .next _ := admitIn_of_mem _ (by simp [hs])
  rw [sendFrame, hstart, andThen_of_next]

/-- A request of at most 255 payload bytes, sent in `IDLE` (spec/41_encoder.md R93). -/
theorem sendFrame_next (hs : s.st = .idle) (hlen : payload.length ≤ 255) : sendFrame c payload s = .next
    { s with sum := sum8 (requestBody c payload), rem := 0, st := .idle, tx := s.tx ++ requestBytes c payload } := by
  rw [sendFrame_idle c hs, forBytes_execEncData _ _ (lengthByte_toNat hlen)]
  simp [emitHeader, emitSummed, emit, accAdd, accClr, requestBytes, requestBody, sum8, BitVec.add_assoc]

/-- A payload longer than its length byte can count does not complete. -/
theorem sendFrame_long (hs : s.st = .idle) (hlen : 255 < payload.length) :
    sendFrame c payload s = .refused (.notAdmitted .idle) := by
  rw [sendFrame_idle c hs]
  exact forBytes_execEncData_refused (lt_of_le_of_lt (Nat.le_of_lt_succ (lengthByte payload).isLt) hlen)

theorem sendFrame_refused (hs : s.st ≠ .idle) : sendFrame c payload s = .refused (.notAdmitted s.st) := by
  have hstart : execEncStart c (lengthByte payload) s = .refused (.notAdmitted s.st) :=
    admitIn_of_not_mem _ (by simp [hs])
  rw [sendFrame, hstart, andThen_of_refused]

theorem sendFrame_completes_iff : (∃ t, sendFrame c payload s = .next t) ↔ s.st = .idle ∧ payload.length ≤ 255 := by
  by_cases hs : s.st = .idle
  · by_cases hlen : payload.length ≤ 255
    · simp [sendFrame_next c hs hlen, hs, hlen]
    · simp [sendFrame_long c hs (not_le.mp hlen), hlen]
  · simp [sendFrame_refused c hs, hs]

end

/-- Settles O14: the row is `SEND`. -/
theorem requestFrameRow : Obligations.RequestFrameRow := by
  refine ⟨fun s c payload hs hlen => (sendFrame_next c hs hlen).trans ?_, fun s c payload hs => sendFrame_refused c hs⟩
  simp [requestBytes, requestBody, startMarker, lengthByte]

/-- A request frame's two spellings are the same events. -/
theorem exec_requestInstr (c : Byte) (payload : List Byte) (s : State) :
    exec (requestInstr c payload) s = sendFrame c payload s := by
  unfold requestInstr
  split
  · split
    case isTrue hc => rw [hc]; rfl
    case isFalse => rfl
  · rfl

/-- Settles O55: only a request frame has another spelling. -/
theorem canonicalSpellingSameMeaning : Obligations.CanonicalSpellingSameMeaning := by
  intro i s
  cases i with
  | reqFrame c payload => exact exec_requestInstr c payload s
  | _ => rfl

/-! ### A response received -/

/-- Settles O34: the frame's bytes, with none behind them. -/
theorem responseFrameReceived : Obligations.ResponseFrameReceived := by
  intro s header payload x hs hpos hoff hheader hlen
  have hhdr : header.length + 1 = s.cfg.hdrLen.toNat := headerFits_iff.mp hheader
  have hlast : s.cfg.hdrLen.toNat - 1 = header.length := by omega
  rw [hlast]
  exact forBytes_frame x [] hs hpos hoff hhdr (lengthByte_toNat hlen).symm

/-- Settles O35: every byte is dropped, or the first is refused. -/
theorem responseFrameElsewhere : Obligations.ResponseFrameElsewhere :=
  ⟨fun _ _ _ _ hs => forBytes_dropped _ hs, fun s header payload x hs =>
    forBytes_refused (fun b => by simp [execRxByte, hs]) (by simp [responseBytes])⟩

theorem execRspFrame_completes_iff {header payload : List Byte} {x : Byte} {s : State} :
    (∃ t, execRspFrame header payload x s = .next t) ↔ s.st ≠ .enc := by
  constructor
  · rintro ⟨t, ht⟩ hs
    cases ht.symm.trans (responseFrameElsewhere.2 s header payload x hs)
  · exact forBytes_completes execRxByte_next _ s

end Sys2Proof.Machine
end

section
/-!
SUPPORT. Where each row of the table is refused and where it completes, in every state that keeps the invariant
(spec/30_encoding.md R66, R70).
-/

namespace Sys2Proof.Machine

section
variable {i : Instr} {s : State}

/-- An event completes where its cell of the transition table names a phase. -/
theorem event_completes_iff (hi : isEvent i = true) (h : s.Inv) : (∃ t, exec i s = .next t) ↔ transitionCell i s ≠ [] := by
  constructor
  · rintro ⟨t, ht⟩
    exact List.ne_nil_of_mem ((exec_completes (isWireRow_of_isEvent hi) ht).st_mem_transitionCell hi)
  · intro hcell
    rcases event_refused_or_completes hi h with ⟨hempty, -⟩ | hcompletes
    · exact absurd hempty hcell
    · exact hcompletes

theorem event_refused_iff (hi : isEvent i = true) (h : s.Inv) : (∃ r, exec i s = .refused r) ↔ transitionCell i s = [] := by
  constructor
  · rintro ⟨r, hr⟩
    by_contra hcell
    obtain ⟨t, ht⟩ := (event_completes_iff hi h).mpr hcell
    cases hr.symm.trans ht
  · intro hcell
    rcases event_refused_or_completes hi h with ⟨-, hrefused⟩ | hcompletes
    · exact hrefused
    · exact absurd hcell ((event_completes_iff hi h).mp hcompletes)

/-- The column "admitted in `st`" of R66 names the cells of spec/10_state.md R25 that are not empty. -/
theorem transitionCell_ne_nil_iff (hi : isEvent i = true) : transitionCell i s ≠ [] ↔ admitted i s = true := by
  cases i with
  | rst | statRd | reserved => simp [transitionCell, admitted]
  | encStart c l | decArm n => by_cases hs : s.st = .idle <;> simp [transitionCell, admitted, hs, ite_eq_iff]
  | encData b => by_cases hs : s.st = .enc <;> simp [transitionCell, admitted, hs, ite_eq_iff]
  | bufRd k => by_cases hs : s.st = .idle <;> simp [transitionCell, admitted, hs]
  | rxByte b => cases hs : s.st <;> simp [transitionCell, rxByteCell, admitted, hs]
  | rxTmo => cases hs : s.st <;> simp [transitionCell, rxTmoCell, admitted, hs]
  | accClr | accAdd | accEq | reqFrame | rspFrame | cmdSetVolume => cases hi

end

/-- Settles O40: what an event word decodes to is an event. -/
theorem refusedExactly : Obligations.RefusedExactly :=
  ⟨fun _ w => event_refused_iff (Laws.EventDecode.decodeEvent_wf w).2, fun _ _ => ⟨nofun, nofun⟩⟩

/-- Settles O41: an event by its cell, a micro-operation always, a wire row by its events. -/
theorem completesExactlyWhereAdmitted : Obligations.CompletesExactlyWhereAdmitted := by
  intro i s h
  cases i with
  | accClr | accAdd | accEq => exact iff_of_true ⟨_, rfl⟩ rfl
  | reqFrame c payload => exact (sendFrame_completes_iff c).trans (by simp [admitted])
  | cmdSetVolume v => exact (sendFrame_completes_iff setVolumeCommand).trans (by simp [admitted])
  | rspFrame header payload x => exact execRspFrame_completes_iff.trans (by simp [admitted])
  | _ => exact (event_completes_iff rfl h).trans (transitionCell_ne_nil_iff rfl)

end Sys2Proof.Machine
end

section
/-!
SUPPORT. The accumulator and its function `Sum8` (spec/40_checksum_accumulator.md R81 to R86). The laws of `Sum8` are those of a
sum in the ring of bytes; only the single-bit flip speaks of bits.
-/

namespace Sys2Proof.Machine

/-! ### Sum8 as a sum of bytes -/

theorem sum8_eq_sum (bs : List Byte) : sum8 bs = bs.sum := by
  induction bs with
  | nil => rfl
  | cons b bs ih => rw [sum8, ih, List.sum_cons]

theorem sum8_toNat (bs : List Byte) : (sum8 bs).toNat = (bs.map BitVec.toNat).sum % 256 := by
  induction bs with
  | nil => rfl
  | cons b bs ih => rw [sum8, BitVec.toNat_add, ih, List.map_cons, List.sum_cons, Nat.add_mod_mod]

theorem sum8_perm {as bs : List Byte} (h : as.Perm bs) : sum8 as = sum8 bs := by
  rw [sum8_eq_sum, sum8_eq_sum, h.sum_eq]

/-- A byte adds itself, wherever it stands. -/
theorem sum8_insert (as bs : List Byte) (x : Byte) : sum8 (as ++ x :: bs) = x + sum8 (as ++ bs) :=
  sum8_perm List.perm_middle

/-- The differences of two byte lists of one length sum to the difference of their sums. -/
theorem sum8_zipWith_sub {as bs : List Byte} (h : as.length = bs.length) :
    sum8 (List.zipWith (fun x y => y - x) as bs) = sum8 bs - sum8 as := by
  induction as generalizing bs with
  | nil => rw [List.eq_nil_of_length_eq_zero h.symm]; rfl
  | cons a as ih =>
    obtain ⟨b, bs, rfl⟩ := List.exists_cons_of_length_eq_add_one h.symm
    rw [List.zipWith_cons_cons, sum8, sum8, sum8, ih (Nat.succ.inj h), add_sub_add_comm]

/-! ### One flipped bit -/

section
variable {w : Nat} {x : BitVec w} {j : Nat}

/-- Flipping a bit that is clear adds its weight. -/
theorem xor_bit_of_clear (h : x.getLsbD j = false) : x ^^^ 1#w <<< j = x + 1#w <<< j := by
  have hand : x &&& 1#w <<< j = 0#w := by rw [← BitVec.twoPow_eq, BitVec.and_twoPow, h]; rfl
  rw [BitVec.add_eq_or_of_and_eq_zero _ _ hand, ← BitVec.twoPow_eq]
  ext i hi
  rw [BitVec.getElem_xor, BitVec.getElem_or, BitVec.getElem_twoPow]
  by_cases hij : i = j
  · subst hij
    simp [← BitVec.getLsbD_eq_getElem, h]
  · simp [hij]

/-- Flipping a bit that is set takes its weight away. -/
theorem xor_bit_of_set (h : x.getLsbD j = true) : x ^^^ 1#w <<< j = x - 1#w <<< j := by
  have hclear : (x ^^^ 1#w <<< j).getLsbD j = false := by
    simp [← BitVec.twoPow_eq, BitVec.lt_of_getLsbD h, h]
  rw [eq_sub_iff_add_eq, ← xor_bit_of_clear hclear, BitVec.xor_assoc, BitVec.xor_self, BitVec.xor_zero]

end

/-! ### The accumulator -/

/-- Additions leave the sum of the added bytes on top of what stood in `sum`. -/
theorem foldl_accAdd (bs : List Byte) (s : State) :
    bs.foldl (fun u b => accAdd b u) s = { s with sum := s.sum + sum8 bs } := by
  induction bs generalizing s with
  | nil => simp [sum8]
  | cons b bs ih => rw [List.foldl_cons, ih, sum8, accAdd_sum, BitVec.add_assoc]; rfl

/-- Settles O8: by induction on the bytes, by the order's being of no effect, and by R33 (e) for the sum in `CHECKSUM`. -/
theorem sum8AfterAdditions : Obligations.Sum8AfterAdditions := by
  refine ⟨sum8_toNat, fun s bs order horder => ?_, fun c payload => ?_, fun s n bytes l t hs hn hl hlen ht => ?_⟩
  · rw [foldl_accAdd, sum8_perm horder, accClr_sum, zero_add]
    rfl
  · exact List.getLast?_concat
  · obtain ⟨u, hu, -, -, hbody⟩ := decoderStateFollowsBytes s n bytes hs hn
    obtain ⟨-, -, hchecksum, -⟩ := hbody l hl
    obtain ⟨hst, -, -, hsum, -⟩ := hchecksum hlen
    cases hu.symm.trans ht
    exact ⟨hst, hsum⟩

/-- Settles O9: a byte adds itself wherever it stands, so sums differ as the bytes do; doubling tells 0 from 1. -/
theorem sum8Laws : Obligations.Sum8Laws := by
  refine ⟨fun as bs => ?_, fun _ _ => sum8_perm, fun as bs x y hne => ?_, fun as bs x j _ => ?_, fun as bs hlen => ?_,
    fun as bs => ?_, fun bs => ?_, [0], [1], by decide⟩
  · rw [sum8_append, BitVec.toNat_add]
  · rw [sum8_insert, sum8_insert]
    exact fun heq => hne (add_right_cancel heq)
  · rw [sum8_insert, sum8_insert]
    cases hbit : x.getLsbD j with
    | false => exact .inl (by rw [xor_bit_of_clear hbit, add_right_comm])
    | true => exact .inr (by rw [xor_bit_of_set hbit, sub_add_eq_add_sub])
  · rw [sum8_zipWith_sub hlen, sub_eq_zero]
  · rw [sum8_insert, zero_add]
  · rw [sum8_append, sum8, sum8, add_zero, BitVec.toNat_add, two_mul]

/-- The comparison of R83 is one of unsigned numbers. -/
theorem accEq_eq_decide (b : Byte) (s : State) : accEq b s = decide (b.toNat = s.sum.toNat) := by
  rw [Bool.eq_iff_iff]
  simp [accEq, BitVec.toNat_inj]

/-- The addition of R82 drops bit 8 of the 9-bit sum. -/
theorem accAdd_eq_mod (b : Byte) (s : State) :
    accAdd b s = { s with sum := BitVec.ofNat 8 ((s.sum.toNat + b.toNat) % 256) } := by
  have hsum : s.sum + b = BitVec.ofNat 8 ((s.sum.toNat + b.toNat) % 256) := BitVec.eq_of_toNat_eq (by simp)
  rw [accAdd, hsum]

/-- Settles O7: each micro-operation is its one shared operation. -/
theorem accumulatorMicroOps : Obligations.AccumulatorMicroOps :=
  ⟨fun _ => rfl, fun s b => congrArg Host.Outcome.next (accAdd_eq_mod b s), fun s b =>
    congrArg (fun equal => Host.Outcome.next (answer (.equal equal) s)) (accEq_eq_decide b s)⟩

end Sys2Proof.Machine
end

section
/-!
SUPPORT. The encoder (spec/41_encoder.md R90 to R95): the next state of each of its two events, the frame they emit together,
what they leave unchanged, and what ends a frame.
-/

namespace Sys2Proof.Machine

/-! ### A whole request -/

/-- Settles O13: the events of a request are `SEND`, which one `ENC.DATA` for each byte owed completes. -/
theorem requestFrameEmitted : Obligations.RequestFrameEmitted := by
  intro s c payload hs hlen
  refine ⟨rfl, by simp [requestBytes, requestBody], ?_⟩
  calc runScript (sendScript c payload) s
    _ = sendFrame c payload s := runScript_sendScript c payload s
    _ = _ := sendFrame_next c hs hlen

section
variable {c : Byte} {payload : List Byte} {s t : State}

/-- Every completion of `SEND` is the one of spec/41_encoder.md R93. -/
theorem sendFrame_next_eq (h : sendFrame c payload s = .next t) :
    t = { s with sum := sum8 (requestBody c payload), rem := 0, st := .idle, tx := s.tx ++ requestBytes c payload } := by
  obtain ⟨hs, hlen⟩ := (sendFrame_completes_iff c).mp ⟨t, h⟩
  cases h.symm.trans (sendFrame_next c hs hlen)
  rfl

theorem sendScript_tx (h : runScript (sendScript c payload) s = .next t) : t.tx = s.tx ++ requestBytes c payload := by
  rw [runScript_sendScript] at h
  rw [sendFrame_next_eq h]

end

/-- Settles O16: the frame is `Encode(c, P)`, for every send. -/
theorem encodeIgnoresState : Obligations.EncodeIgnoresState := by
  intro c payload s t _ _ h
  rw [runScript_append] at h
  obtain ⟨u, hu, ht⟩ := andThen_next.mp h
  exact ⟨requestBytes c payload, by rw [sendScript_tx ht, sendScript_tx hu], fun _ _ _ => sendScript_tx⟩

/-! ### The two events -/

/-- Marker, command and length are emitted, and their sum replaces what stood in `sum` (R91). -/
theorem emitHeader_eq (c l : Byte) (s : State) : emitHeader c l s =
    { s with sum := startMarker + c + l, tx := s.tx ++ [startMarker, c, l] } := by
  simp [emitHeader, emitSummed, emit, accAdd, accClr]

/-- Settles O10: a frame of no payload bytes is closed at once, any other stays open. -/
theorem encStartEffect : Obligations.EncStartEffect := by
  refine ⟨fun s c l hs => ?_, fun s c l hs => admitIn_of_not_mem _ (by simp [hs])⟩
  by_cases hl : l = 0
  · subst hl
    rw [(Completes.emptyFrame c hs).exec_eq]
    simp [emitHeader_eq, goto, emitSum, emit, startMarker]
  · rw [(Completes.openFrame c hs hl).exec_eq, if_neg (Nat.one_le_iff_ne_zero.mp (one_le_toNat_of_ne_zero hl))]
    rw [emitHeader_eq]
    rfl

/-- Settles O11: the last byte owed closes the frame, any other leaves it open. -/
theorem encDataEffect : Obligations.EncDataEffect := by
  refine ⟨fun s b hs _ => ?_, fun s b hs => admitIn_of_not_mem _ (by simp [hs])⟩
  by_cases hr : s.rem - 1 = 0
  · rw [(Completes.lastData b hs hr).exec_eq, if_pos ((sub_one_eq_zero_iff _).mp hr), hr]
    simp [goto, emitSum, emitSummed, emit, accAdd]
  · rw [(Completes.moreData b hs hr).exec_eq, if_neg (mt (sub_one_eq_zero_iff _).mpr hr)]
    rfl

/-! ### What the encoder leaves unchanged -/

/-- Settles O12: each completion writes `sum`, `rem`, `st` and the output only, and the output grows. -/
theorem encoderFrame : Obligations.EncoderFrame := by
  intro i s t hi h
  have hwrites : t = { s with sum := t.sum, rem := t.rem, st := t.st, tx := t.tx } := by
    rcases hi with ⟨c, l, rfl⟩ | ⟨b, rfl⟩ | ⟨c, payload, rfl⟩ | ⟨v, rfl⟩
    · cases execEncStart_completes h with
      | emptyFrame | openFrame => rfl
    · cases execEncData_completes h with
      | lastData | moreData => rfl
    · rw [sendFrame_next_eq h]
    · rw [sendFrame_next_eq h]
  obtain ⟨bs, htx⟩ := exec_tx_grows h
  rw [hwrites]
  exact ⟨fun _ => rfl, rfl, rfl, rfl, rfl, rfl, rfl, rfl, rfl, bs, htx⟩

/-! ### The end of a frame -/

/-- Settles O17: the column `ENC` of the transition table, and R93 for the phase a whole request ends in. -/
theorem onlyDataOrResetLeavesEnc : Obligations.OnlyDataOrResetLeavesEnc := by
  refine ⟨fun i s t hi hs h hleaves => ?_, fun c payload b s hs hlen => ?_⟩
  · have hcell := (exec_completes (isWireRow_of_isEvent hi) h).st_mem_transitionCell hi
    cases i with
    | rst => exact .inl rfl
    | encData b =>
      by_cases hrem : s.rem.toNat = 1
      · exact .inr ⟨b, rfl, hrem⟩
      · exact absurd (by simpa [transitionCell, hs, hrem] using hcell) hleaves
    | statRd => exact absurd (by simpa [transitionCell, hs] using hcell) hleaves
    | _ => simp [transitionCell, rxByteCell, rxTmoCell, hs] at hcell
  · rw [runScript_append, runScript_sendScript, sendFrame_next c hs hlen, andThen_of_next, runScript_cons,
      encDataEffect.2 _ b (by simp), andThen_of_refused]

end Sys2Proof.Machine
end

section
/-!
SUPPORT. The decoder's three events, one at a time (spec/42_decoder.md R100 to R111): the next state of each in each phase, and
what they and a response frame leave unchanged.
-/

namespace Sys2Proof.Machine

/-! ### Arming -/

/-- Settles O18: arming zeroes what it makes active, and is admitted in `IDLE` only. -/
theorem decArmEffect : Obligations.DecArmEffect := by
  refine ⟨fun s n hs hn => ?_, fun s n hs => admitIn_of_not_mem _ (by simp [hs])⟩
  exact ⟨arm n s, (Completes.arm hs (by bv_omega)).exec_eq, rfl, readBuf_zeroBuf s n.toNat⟩

/-- Settles O19: an arming without a buffer is admitted in `IDLE` only, and does nothing there. -/
theorem decArmZeroNoEffect : Obligations.DecArmZeroNoEffect :=
  ⟨fun _ hs => (Completes.armZero hs).exec_eq, fun _ hs => admitIn_of_not_mem _ (by simp [hs])⟩

/-! ### A byte received -/

/-- Settles O20: the byte at the last header position is the length byte, any other is only summed and counted. -/
theorem rxByteInHeader : Obligations.RxByteInHeader := by
  intro s b hs _
  by_cases hp : s.hpos = lastHeaderPos s
  · rw [if_pos (hpos_eq_last_iff.mp hp)]
    exact execRxByte_length b hs hp
  · rw [if_neg (mt hpos_eq_last_iff.mpr hp)]
    exact execRxByte_headerByte b hs hp

/-- Settles O21: the byte is stored at its slot, and the phase tells whether another is owed. -/
theorem rxByteInPayload : Obligations.RxByteInPayload := by
  intro s b hs hcnt _
  obtain ⟨t, ht, hteq, hread⟩ := execRxByte_payload b hs hcnt
  simp only [← payloadSlot_eq_some] at hread
  have hphase : bodyPhase (s.cnt.toNat - 1) = if s.cnt.toNat = 1 then .checksum else .payload := by
    simp only [bodyPhase, show s.cnt.toNat - 1 = 0 ↔ s.cnt.toNat = 1 by omega]
  rw [hphase] at hteq
  exact ⟨t, ht, hteq, rfl, fun k hk => (hread k).trans (if_pos hk), fun k hk => (hread k).trans (if_neg hk)⟩

/-- Settles O22: the byte is compared with `sum`, and only a mismatch writes the buffer. -/
theorem rxByteInChecksum : Obligations.RxByteInChecksum := by
  refine ⟨fun s hs => (Completes.sumMatches hs).exec_eq, fun s b hs hb => ?_⟩
  exact ⟨_, (Completes.sumDiffers hs hb).exec_eq, rfl, readBuf_zeroFill s⟩

/-- Settles O23: outside a frame a byte has no effect. -/
theorem rxByteDropped : Obligations.RxByteDropped := fun _ b hs => (Completes.dropped b hs.symm).exec_eq

/-! ### No byte received -/

/-- Settles O24: a failure before the verdict, the end of the transaction after it, nothing without one. -/
theorem rxTmoEffect : Obligations.RxTmoEffect :=
  ⟨fun s hs => ⟨_, (Completes.timeout hs).exec_eq, rfl, readBuf_zeroFill s⟩, fun _ hs => (Completes.finish hs).exec_eq,
    fun _ hs => (Completes.timeoutIdle hs).exec_eq⟩

/-- Settles O25: both receive events answer by the phase alone in `ENC`. -/
theorem receiveRefusedInEnc : Obligations.ReceiveRefusedInEnc := fun s hs =>
  ⟨by simp [exec, execRxTmo, hs], fun b => by simp [exec, execRxByte, hs]⟩

/-! ### What the decoder leaves unchanged -/

/-- From `s` to `t` only what belongs to the decoder has changed: its registers, the phase, and active bytes of the buffer
(spec/42_decoder.md R100, spec/20_memory.md R41). -/
def OnlyDecoderChanged (s t : State) : Prop :=
  t.tx = s.tx ∧ t.rem = s.rem ∧ t.cfg = s.cfg ∧ t.answers = s.answers ∧ t.pending = s.pending ∧
    ∀ k, t.blen.toNat ≤ k → readBuf t k = readBuf s k

theorem OnlyDecoderChanged.refl (s : State) : OnlyDecoderChanged s s := ⟨rfl, rfl, rfl, rfl, rfl, fun _ _ => rfl⟩

theorem OnlyDecoderChanged.trans {s u t : State} (hblen : t.blen = u.blen) (hsu : OnlyDecoderChanged s u)
    (hut : OnlyDecoderChanged u t) : OnlyDecoderChanged s t := by
  obtain ⟨htx, hrem, hcfg, hanswers, hpending, hread⟩ := hsu
  obtain ⟨htx', hrem', hcfg', hanswers', hpending', hread'⟩ := hut
  exact ⟨htx'.trans htx, hrem'.trans hrem, hcfg'.trans hcfg, hanswers'.trans hanswers, hpending'.trans hpending,
    fun k hk => (hread' k hk).trans (hread k (hblen ▸ hk))⟩

/-- Arming zeroes active bytes only. -/
theorem arm_onlyDecoderChanged (n : Byte) (s : State) : OnlyDecoderChanged s (arm n s) :=
  ⟨rfl, rfl, rfl, rfl, rfl, fun k hk => (readBuf_zeroBuf s n.toNat k).trans (if_neg (not_lt.mpr hk))⟩

/-- A failure zeroes active bytes only. -/
theorem raise_onlyDecoderChanged (f : Failure) (s : State) : OnlyDecoderChanged s (raise f s) :=
  ⟨rfl, rfl, rfl, rfl, rfl, fun k hk => (readBuf_zeroFill s k).trans (if_neg (not_lt.mpr hk))⟩

/-- A payload byte is stored at an active offset or not at all. -/
theorem readBuf_storePayload_inactive {s : State} (b : Byte) {k : Nat} (hk : s.blen.toNat ≤ k) :
    readBuf (storePayload b s) k = readBuf s k := by
  rw [readBuf_storePayload, if_neg fun hslot => absurd (payloadSlot_lt hslot) (not_lt.mpr hk)]

/-- A byte received never changes the capacity. -/
theorem execRxByte_onlyDecoderChanged {b : Byte} {s t : State} (h : execRxByte b s = .next t) :
    t.blen = s.blen ∧ OnlyDecoderChanged s t := by
  cases execRxByte_completes h with
  | payloadByte b hs => exact ⟨rfl, rfl, rfl, rfl, rfl, rfl, fun _ hk => readBuf_storePayload_inactive b hk⟩
  | sumDiffers hs hb => exact ⟨rfl, raise_onlyDecoderChanged _ s⟩
  | headerByte | lengthByte | sumMatches | dropped => exact ⟨rfl, .refl s⟩

/-- Settles O26: each event writes what is the decoder's, and a response frame is bytes received in order. -/
theorem decoderFrame : Obligations.DecoderFrame := by
  intro i s t hi h
  suffices OnlyDecoderChanged s t from this
  rcases hi with ⟨n, rfl⟩ | ⟨b, rfl⟩ | rfl | ⟨header, payload, x, rfl⟩
  · cases execDecArm_completes h with
    | armZero => exact .refl s
    | arm => exact arm_onlyDecoderChanged n s
  · exact (execRxByte_onlyDecoderChanged h).2
  · cases execRxTmo_completes h with
    | timeout => exact raise_onlyDecoderChanged _ s
    | finish | timeoutIdle => exact .refl s
  · refine forBytes_keeps (P := OnlyDecoderChanged s) (fun b u v hu hv => ?_) _ s t (.refl s) h
    obtain ⟨hblen, huv⟩ := execRxByte_onlyDecoderChanged hv
    exact hu.trans hblen huv

end Sys2Proof.Machine
end

section
/-!
SUPPORT. `Decode(H, n, B)` as a whole (spec/42_decoder.md R112 to R117): where the closed form stands for each way the bytes can
end, that a run ends in it, and what follows for encoded, corrupted, failed and long responses.
-/

namespace Sys2Proof.Machine

/-! ### The closed form, by where the bytes end -/

section
variable {h n : Nat} {bytes : List Byte} {l x : Byte}

theorem decodeClosed_noLength (hlen : bytes[h - 1]? = none) : decodeClosed h n bytes = (.tmo, List.replicate n 0) := by
  rw [decodeClosed, hlen]

theorem decodeClosed_noChecksum (hl : bytes[h - 1]? = some l) (hlen : bytes.length ≤ h + l.toNat) :
    decodeClosed h n bytes = (.tmo, List.replicate n 0) := by
  simp only [decodeClosed, hl, List.getElem?_eq_none hlen]

theorem decodeClosed_whole (hl : bytes[h - 1]? = some l) (hx : bytes[h + l.toNat]? = some x) :
    decodeClosed h n bytes = if x = sum8 (bytes.take (h + l.toNat)) then (.ok, padded n ((bytes.drop h).take l.toNat))
      else (.sumErr, List.replicate n 0) := by
  simp only [decodeClosed, hl, hx]

/-- The closed form is a success exactly by R113. -/
theorem decodeClosed_eq_ok_iff : (decodeClosed h n bytes).1 = .ok ↔
    ∃ l, bytes[h - 1]? = some l ∧ bytes[h + l.toNat]? = some (sum8 (bytes.take (h + l.toNat))) := by
  cases hl : bytes[h - 1]? with
  | none => simp [decodeClosed_noLength hl]
  | some l =>
    cases hx : bytes[h + l.toNat]? with
    | none => simp [decodeClosed_noChecksum hl (List.getElem?_eq_none_iff.mp hx), hx]
    | some x =>
      by_cases hsum : x = sum8 (bytes.take (h + l.toNat))
      · simp [decodeClosed_whole hl hx, hx, ← hsum]
      · simp [decodeClosed_whole hl hx, hx, hsum]

/-- A frame that ends in its own sum, and whatever follows. -/
theorem decodeClosed_frame {header payload : List Byte} (tail : List Byte) (hheader : header.length + 1 = h)
    (hlen : payload.length = l.toNat) :
    decodeClosed h n (header ++ l :: payload ++ sum8 (header ++ l :: payload) :: tail) = (.ok, padded n payload) := by
  have hend : (header ++ l :: payload).length = h + l.toNat := by simp; omega
  rw [decodeClosed_whole (l := l) (x := sum8 (header ++ l :: payload)) (by simp [← hheader]) (by simp [← hend]), ← hend,
    List.take_left, if_pos rfl, ← hheader, ← hlen]
  simp

end

/-- A closed form that is not a success holds zeros (R116). -/
theorem decodeClosed_cases (h n : Nat) (bytes : List Byte) :
    decodeClosed h n bytes = (.tmo, List.replicate n 0) ∨ decodeClosed h n bytes = (.sumErr, List.replicate n 0) ∨
      (decodeClosed h n bytes).1 = .ok := by
  unfold decodeClosed
  split
  · exact .inl rfl
  split
  · exact .inl rfl
  split
  · exact .inr (.inr rfl)
  · exact .inr (.inl rfl)

/-! ### Decode ends in the closed form -/

section
variable {s u : State} {n : Byte} {bytes : List Byte}

/-- A response that breaks off ends in a timeout. -/
theorem decodesTo_timeout (hu : runScript (.decArm n :: bytes.map .rxByte) s = .next u) (hblen : u.blen = n)
    (hst : u.st = .header ∨ u.st = .payload ∨ u.st = .checksum) :
    decodesTo s n bytes (.tmo, List.replicate n.toNat 0) := by
  refine ⟨raise .timeout u, recvScript_next.mpr ⟨u, hu, (Completes.timeout hst).exec_eq⟩, rfl, hblen, rfl, ?_⟩
  rw [activeBytes_of_activeZero (raise_activeZero _ u), raise_blen, hblen, List.map_replicate]

/-- A response that brought the verdict ends with it. -/
theorem decodesTo_finish {result : Verdict × List Byte} (hu : runScript (.decArm n :: bytes.map .rxByte) s = .next u)
    (hblen : u.blen = n) (hst : u.st = .done) (hresult : (u.vd, activeBytes u) = (result.1, result.2.map some)) :
    decodesTo s n bytes result := by
  obtain ⟨hvd, hbytes⟩ := Prod.mk.inj hresult
  exact ⟨goto .idle u, recvScript_next.mpr ⟨u, hu, (Completes.finish hst).exec_eq⟩, rfl, hblen, hvd, hbytes⟩

end

/-- Settles O28: R33 gives the phase, the verdict and the active bytes that `RX.TMO` then meets. -/
theorem decodeClosedForm : Obligations.DecodeClosedForm := by
  intro s n bytes hs hn
  obtain ⟨u, hu, hblen, hshort, hlong⟩ := decoderStateFollowsBytes s n bytes hs hn
  have hbounds := hdrLen_bounds s.cfg.hdrLen
  cases hl : bytes[s.cfg.hdrLen.toNat - 1]? with
  | none =>
    have hlen := List.getElem?_eq_none_iff.mp hl
    obtain ⟨hst, -⟩ := hshort (by omega)
    rw [decodeClosed_noLength hl]
    exact decodesTo_timeout hu hblen (.inl hst)
  | some l =>
    obtain ⟨-, hpayload, hchecksum, hdone⟩ := hlong l hl
    rcases Nat.lt_trichotomy bytes.length (s.cfg.hdrLen.toNat + l.toNat) with hlt | heq | hgt
    · obtain ⟨hst, -⟩ := hpayload hlt
      rw [decodeClosed_noChecksum hl hlt.le]
      exact decodesTo_timeout hu hblen (.inr (.inl hst))
    · obtain ⟨hst, -⟩ := hchecksum heq
      rw [decodeClosed_noChecksum hl heq.le]
      exact decodesTo_timeout hu hblen (.inr (.inr hst))
    · obtain ⟨hst, -, -, hsum, hverdict⟩ := hdone hgt
      have hx := List.getElem?_eq_getElem hgt
      rw [decodeClosed_whole hl hx]
      refine decodesTo_finish hu hblen hst (hverdict.trans ?_)
      rw [hx, hsum]
      simp only [Option.some.injEq]
      split <;> simp

section
variable {s : State} {n : Byte} {bytes : List Byte}

theorem decodesTo_of_decodeClosed {result : Verdict × List Byte} (hs : s.st = .idle) (hn : 1 ≤ n.toNat)
    (h : decodeClosed s.cfg.hdrLen.toNat n.toNat bytes = result) : decodesTo s n bytes result :=
  h ▸ decodeClosedForm s n bytes hs hn

/-- Every completed decode shows its closed form. -/
theorem recvScript_result {t : State} (hs : s.st = .idle) (hn : 1 ≤ n.toNat) (ht : runScript (recvScript n bytes) s = .next t) :
    t.blen = n ∧ t.vd = (decodeClosed s.cfg.hdrLen.toNat n.toNat bytes).1 ∧
      activeBytes t = (decodeClosed s.cfg.hdrLen.toNat n.toNat bytes).2.map some := by
  obtain ⟨t', ht', -, hresult⟩ := decodeClosedForm s n bytes hs hn
  cases ht'.symm.trans ht
  exact hresult

end

/-! ### Accepted and failed decodes -/

/-- Settles O29: the verdict is the closed form's, which tests just this. -/
theorem acceptanceCriterion : Obligations.AcceptanceCriterion := by
  intro s n bytes t hs hn ht
  obtain ⟨-, hvd, -⟩ := recvScript_result hs hn ht
  rw [hvd, decodeClosed_eq_ok_iff]

theorem activeZero_of_activeBytes {t : State} {n : Nat} (h : activeBytes t = List.replicate n (some 0)) : activeZero t := by
  intro k hk
  have hmem : readBuf t k ∈ activeBytes t := List.mem_map_of_mem (List.mem_range.mpr hk)
  exact List.eq_of_mem_replicate (h ▸ hmem)

/-- Settles O32: a failed closed form holds zeros; a payload byte of zero that is accepted refutes the converse. -/
theorem failedDecodeLeavesZeros : Obligations.FailedDecodeLeavesZeros := by
  refine ⟨fun s n bytes t hs hn ht hfail => ?_,
    State.reset, 1, [0xAA, 0x0A, 0x01, 0x00, 0xB5], _, rfl, by decide, rfl, by decide, rfl⟩
  obtain ⟨-, hvd, hbytes⟩ := recvScript_result hs hn ht
  refine activeZero_of_activeBytes (n := n.toNat) ?_
  rcases decodeClosed_cases s.cfg.hdrLen.toNat n.toNat bytes with htmo | hsumErr | hok
  · rw [hbytes, htmo, List.map_replicate]
  · rw [hbytes, hsumErr, List.map_replicate]
  · simp [hvd, hok] at hfail

/-! ### Whole frames -/

theorem padded_eq_take {n : Nat} {payload : List Byte} (h : n ≤ payload.length) : padded n payload = payload.take n :=
  List.take_append_of_le_length h

/-- Settles O33: the frame is received whole, and `off` counts its payload. -/
theorem drainingAcceptsLongPayload : Obligations.DrainingAcceptsLongPayload := by
  intro s n header payload hs hn hheader hlen hlong
  obtain ⟨u, hu, -, -, hst, hoff, -, hsum, hverdict⟩ := armed_frame s n (lengthByte payload)
    (sum8 (responseBody header payload)) [] (headerFits_iff.mp hheader) (lengthByte_toNat hlen).symm
  rw [hsum, responseBody, if_pos rfl, Prod.mk.injEq, padded_eq_take hlong.le] at hverdict
  obtain ⟨hvd, hbytes⟩ := hverdict
  refine ⟨goto .idle u, recvScript_next.mpr ⟨u, (runScript_armed _ hs hn).trans hu, (Completes.finish hst).exec_eq⟩, hvd, ?_,
    hbytes⟩
  rw [goto_off, hoff, lengthByte_toNat hlen]

/-- Settles O30: an encoded frame is a frame with the header its header length gives it; with two header bytes the command
byte 0 is read as the length. -/
theorem roundTripRecoversPayload : Obligations.RoundTripRecoversPayload := by
  refine ⟨fun s n c payload hs hn hlen => ?_,
    { State.reset with cfg := { hdrLen := .two } }, 1, 0, [5], rfl, rfl, by decide, by decide, ?_⟩
  · have hl : payload.length = (lengthByte payload).toNat := (lengthByte_toNat hlen).symm
    exact ⟨fun hcfg => decodesTo_of_decodeClosed hs hn
        (decodeClosed_frame (header := [startMarker, c]) [] (by rw [hcfg]; rfl) hl),
      fun hcfg => decodesTo_of_decodeClosed hs hn (decodeClosed_frame (header := [c]) [] (by rw [hcfg]; rfl) hl)⟩
  · rintro ⟨t, ht, -, -, hvd, -⟩
    obtain ⟨-, hclosed, -⟩ := recvScript_result rfl (by decide) ht
    exact absurd (hvd.symm.trans hclosed) (by decide)

/-! ### One changed byte -/

/-- A replaced byte changes the sum by the difference. -/
theorem sum8_set {bs : List Byte} {j : Nat} {y : Byte} (x : Byte) (hy : bs[j]? = some y) :
    sum8 (bs.set j x) = sum8 bs - (y - x) := by
  obtain ⟨hj, rfl⟩ := List.getElem?_eq_some_iff.mp hy
  rw [sum8_eq_sum, sum8_eq_sum, List.sum_set', dif_pos hj, sub_sub_eq_add_sub, add_sub_assoc, neg_add_eq_sub]

section
variable {h n : Nat} {frame : List Byte}

/-- A change outside the length byte (R115 (a)): in the checksum byte it ends the match, before it it changes the sum. -/
theorem decodeClosed_changed {l x y : Byte} {j : Nat} (hl : frame[h - 1]? = some l) (hlen : frame.length = h + l.toNat + 1)
    (hsum : frame[h + l.toNat]? = some (sum8 (frame.take (h + l.toNat)))) (hj : j ≠ h - 1) (hy : frame[j]? = some y)
    (hne : x ≠ y) : decodeClosed h n (frame.set j x) = (.sumErr, List.replicate n 0) := by
  have hl' : (frame.set j x)[h - 1]? = some l := by rw [List.getElem?_set_ne hj, hl]
  obtain ⟨hjlen, -⟩ := List.getElem?_eq_some_iff.mp hy
  by_cases hlast : j = h + l.toNat
  · subst hlast
    rw [decodeClosed_whole hl' (List.getElem?_set_self hjlen), if_neg]
    rw [List.take_set_of_le (Nat.le_refl _)]
    obtain rfl : y = _ := Option.some.inj (hy.symm.trans hsum)
    exact hne
  · have hy' : (frame.take (h + l.toNat))[j]? = some y := by rw [List.getElem?_take_of_lt (by omega), hy]
    rw [decodeClosed_whole hl' ((List.getElem?_set_ne hlast).trans hsum), if_neg]
    rw [List.take_set, sum8_set x hy', eq_comm, sub_eq_self, sub_eq_zero]
    exact hne.symm

/-- A raised length (R115 (b)): the checksum byte never comes. -/
theorem decodeClosed_raised {l l' : Byte} (hl : frame[h - 1]? = some l) (hlen : frame.length = h + l.toNat + 1)
    (hlt : l.toNat < l'.toNat) : decodeClosed h n (frame.set (h - 1) l') = (.tmo, List.replicate n 0) := by
  obtain ⟨hpos, -⟩ := List.getElem?_eq_some_iff.mp hl
  exact decodeClosed_noChecksum (List.getElem?_set_self hpos) (by rw [List.length_set]; omega)

/-- A lowered length (R115 (c)): a payload byte is taken as the checksum. -/
theorem decodeClosed_lowered {l l' : Byte} (hh : 1 ≤ h) (hl : frame[h - 1]? = some l) (hlen : frame.length = h + l.toNat + 1)
    (hlt : l'.toNat < l.toNat) : decodeClosed h n (frame.set (h - 1) l') =
      if frame[h + l'.toNat]? = some (sum8 (frame.take (h + l'.toNat)) - (l - l')) then
        (.ok, padded n ((frame.drop h).take l'.toNat))
      else (.sumErr, List.replicate n 0) := by
  obtain ⟨hpos, -⟩ := List.getElem?_eq_some_iff.mp hl
  have hx := List.getElem?_eq_getElem (l := frame) (i := h + l'.toNat) (by omega)
  have hl' : (frame.take (h + l'.toNat))[h - 1]? = some l := by rw [List.getElem?_take_of_lt (by omega), hl]
  rw [decodeClosed_whole (List.getElem?_set_self hpos) ((List.getElem?_set_ne (by omega)).trans hx), List.take_set,
    sum8_set l' hl', List.drop_set_of_lt (by omega), hx]
  simp only [Option.some.injEq]

end

/-- Settles O31, by what each kind of change does to the closed form. -/
theorem oneByteCorruption : Obligations.OneByteCorruption := by
  intro s n frame l hs hn hl hlen hsum
  have hbounds := hdrLen_bounds s.cfg.hdrLen
  exact ⟨fun _ _ _ hj hy hne => decodesTo_of_decodeClosed hs hn (decodeClosed_changed hl hlen hsum hj hy hne),
    fun _ hlt => decodesTo_of_decodeClosed hs hn (decodeClosed_raised hl hlen hlt),
    fun _ hlt => decodesTo_of_decodeClosed hs hn (decodeClosed_lowered (by omega) hl hlen hlt)⟩

end Sys2Proof.Machine
end

section
/-!
SUPPORT. The system operations `RST`, `BUF.RD` and `STAT.RD` (spec/43_system_ops.md), and that no run reads an unwritten byte.
-/

namespace Sys2Proof.Machine

/-! ### No run faults (R122) -/

/-- Two operations in order fault where the first does, or the second from the state the first leaves. -/
theorem andThen_fault {o : Outcome} {g : State → Outcome} {f : Fault} :
    andThen o g = .fault f ↔ o = .fault f ∨ ∃ u, o = .next u ∧ g u = .fault f := by
  cases o <;> simp [andThen]

/-- An event is refused or completes, so it does not fault. -/
theorem event_ne_fault {i : Instr} {s : State} (hi : isEvent i = true) (h : s.Inv) (f : Fault) :
    exec i s ≠ .fault f := by
  intro hf
  rcases event_refused_or_completes hi h with ⟨-, r, hr⟩ | ⟨t, ht⟩
  · cases hr.symm.trans hf
  · cases ht.symm.trans hf

/-- A step waits, or performs what an event word decodes to, which is an event. -/
theorem step_ne_fault {s : State} (h : s.Inv) (f : Fault) : step s ≠ .fault f := by
  unfold step
  split
  case h_1 => nofun
  case h_2 w s' hw =>
    obtain ⟨rest, -, rfl⟩ := takeEvent_some.mp hw
    exact event_ne_fault (Laws.EventDecode.decodeEvent_wf w).2 (h.of_pending rest) f

/-- Settles O44, by induction on the number of steps: no step faults, and each keeps the invariant. -/
theorem noRunFaults : Obligations.NoRunFaults := by
  intro k
  induction k with
  | zero => exact nofun
  | succ k ih =>
    intro s f hs hf
    rw [run_succ] at hf
    rcases andThen_fault.mp hf with hstep | ⟨u, hu, hrun⟩
    · exact step_ne_fault hs f hstep
    · exact ih u f (step_keeps_inv hs hu) hrun

/-! ### `BUF.RD` -/

/-- Settles O4: admission by phase, then by offset; under the invariant an active offset has been written. -/
theorem bufRdEffect : Obligations.BufRdEffect := by
  refine ⟨fun _ _ _ hs hk hb => (Completes.read hs hk hb).exec_eq, ?_, ?_, ?_⟩
  · intro s k hs hk
    exact (admitIn_of_mem _ (by simp [hs])).trans (if_neg (Nat.not_lt.mpr hk))
  · intro s k hs
    exact admitIn_of_not_mem _ (by simp [hs])
  · intro s k h hs hk
    obtain ⟨b, hb⟩ := Option.isSome_iff_exists.mp (h.written _ hk)
    exact ⟨b, hb, (Completes.read hs hk hb).exec_eq⟩

/-! ### `STAT.RD` -/

/-- The status word field by field, each at its bits of R124: every append is passed on the side of the field. -/
theorem statusWord_fields (s : State) :
    (statusWord s).extractLsb' 39 8 = s.sum ∧ (statusWord s).extractLsb' 31 8 = s.cnt ∧
    (statusWord s).extractLsb' 23 8 = s.rem ∧ (statusWord s).extractLsb' 15 8 = s.off ∧
    (statusWord s).extractLsb' 7 8 = s.blen ∧ (statusWord s).extractLsb' 5 2 = s.hpos ∧
    (statusWord s).extractLsb' 2 3 = phaseCode s.st ∧ (statusWord s).extractLsb' 0 2 = verdictCode s.vd := by
  unfold statusWord
  simp only [BitVec.extractLsb'_append_eq_of_le, BitVec.extractLsb'_append_eq_of_add_le, BitVec.extractLsb'_eq_self,
    Nat.reduceLeDiff, Nat.reduceSub, and_self]

/-- Settles O5: the word is `statusWord`, and the codes of its last two fields are those of R24 and R26. -/
theorem statRdEffect : Obligations.StatRdEffect := by
  intro s
  obtain ⟨hsum, hcnt, hrem, hoff, hblen, hhpos, hst, hvd⟩ := statusWord_fields s
  refine ⟨statusWord s, rfl, hsum, hcnt, hrem, hoff, hblen, hhpos, ?_, ?_⟩
  · rw [hst]
    cases s.st <;> rfl
  · rw [hvd]
    cases s.vd <;> rfl

/-! ### `RST` -/

/-- Settles O3: `RST` completes in every state, and the state it leaves is `resetRegisters`. -/
theorem rstEffect : Obligations.RstEffect := fun s => (Completes.rst s).exec_eq

end Sys2Proof.Machine
end

section
/-!
SUPPORT. The host's transaction (spec/44_host_transaction.md R134 to R137, R140): what each of its parts leaves for the next, and
the wire of `setVolume`.
-/

namespace Sys2Proof.Machine

/-! ### The wire of `setVolume` -/

/-- Marker, command and length add up to `0xBE` (spec/90_conflicts.md C2). -/
theorem sum8_setVolumeBody (v : Byte) : sum8 (requestBody setVolumeCommand [v]) = 0xBE + v := by
  simp only [requestBody, startMarker, setVolumeCommand, lengthByte, List.length_singleton, sum8]
  bv_omega

theorem requestBytes_setVolume (v : Byte) : requestBytes setVolumeCommand [v] = [0xAA, 0x13, 0x01, v, 0xBE + v] := by
  rw [requestBytes, sum8_setVolumeBody]
  rfl

/-- Settles O15: the row is `SEND` with one payload byte. -/
theorem setVolumeFrame : Obligations.SetVolumeFrame := by
  refine ⟨fun s v hs => ?_, fun s v hs => sendFrame_refused setVolumeCommand hs⟩
  rw [← requestBytes_setVolume, ← sum8_setVolumeBody]
  exact sendFrame_next setVolumeCommand hs (by simp)

/-! ### The parts of a transaction -/

/-- What every event of a sequence keeps, the sequence keeps. -/
theorem runScript_keeps {P : State → Prop} {is : List Instr}
    (one : ∀ i ∈ is, ∀ s t, P s → exec i s = .next t → P t) : ∀ s t, P s → runScript is s = .next t → P t := by
  induction is with
  | nil => intro s t hs h; cases h; exact hs
  | cons i is ih =>
    intro s t hs h
    obtain ⟨u, hu, ht⟩ := andThen_next.mp h
    exact ih (fun j hj => one j (.tail i hj)) u t (one i (.head is) s u hs hu) ht

section
variable {s : State}

/-- A flush in `IDLE` drops the stale bytes and does nothing else (R135). -/
theorem flushScript_idle (stale : List Byte) (hs : s.st = .idle) : runScript (flushScript stale) s = .next s := by
  have hbytes : runScript (stale.map .rxByte) s = .next s :=
    (runScript_map .rxByte stale s).trans (forBytes_dropped stale (.inl hs))
  have htmo : runScript [.rxTmo] s = .next s := andThen_next.mpr ⟨s, (Completes.timeoutIdle hs).exec_eq, rfl⟩
  rw [flushScript, runScript_append, hbytes, andThen_of_next, htmo]

/-- Receiving emits nothing (R137, spec/42_decoder.md R100). -/
theorem recvScript_tx {t : State} {n : Byte} {bytes : List Byte} (h : runScript (recvScript n bytes) s = .next t) :
    t.tx = s.tx := by
  refine runScript_keeps (P := fun u => u.tx = s.tx) (fun i hi u v hu hv => ?_) s t rfl h
  have hdecoder : (∃ n, i = .decArm n) ∨ (∃ b, i = .rxByte b) ∨ i = .rxTmo ∨
      ∃ header payload x, i = .rspFrame header payload x := by
    simp only [recvScript, List.mem_cons, List.mem_append, List.mem_map, List.not_mem_nil, or_false] at hi
    rcases hi with rfl | ⟨b, -, rfl⟩ | rfl
    · exact .inl ⟨n, rfl⟩
    · exact .inr (.inl ⟨b, rfl⟩)
    · exact .inr (.inr (.inl rfl))
  obtain ⟨htx, -⟩ := decoderFrame i u v hdecoder hv
  exact htx.trans hu

/-- A request sent in `IDLE`: the state in which a transaction awaits its response, if it awaits one (R134, R136). -/
def afterRequest (c : Byte) (payload : List Byte) (s : State) : State :=
  { s with sum := sum8 (requestBody c payload), rem := 0, st := .idle, tx := s.tx ++ requestBytes c payload }

/-- The flush and the request of a transaction complete, and only the response, if any, is left to run (R134). -/
theorem transactScript_idle (stale : List Byte) (c : Byte) {payload : List Byte} (n : Byte) (bytes : List Byte)
    (hs : s.st = .idle) (hlen : payload.length ≤ 255) : runScript (transactScript stale c payload n bytes) s =
      runScript (if n = 0 then [] else recvScript n bytes) (afterRequest c payload s) := by
  have hsend : runScript (sendScript c payload) s = .next (afterRequest c payload s) :=
    (runScript_sendScript c payload s).trans (sendFrame_next c hs hlen)
  rw [transactScript, runScript_append, runScript_append, flushScript_idle stale hs, andThen_of_next, hsend, andThen_of_next]

end

/-- Settles O53: without a buffer the transaction ends with the request, otherwise with the decode that follows it. -/
theorem transactionEndsIdle : Obligations.TransactionEndsIdle := by
  intro s stale c payload n bytes hs hlen
  rw [transactScript_idle stale c n bytes hs hlen]
  by_cases hn : n = 0
  · subst hn
    exact ⟨afterRequest c payload s, rfl, rfl, rfl, fun _ => ⟨rfl, rfl, fun _ => rfl⟩, fun h => absurd h (by decide)⟩
  · have hpos := one_le_toNat_of_ne_zero hn
    obtain ⟨t, ht, hst, hblen, hvd, hbytes⟩ := decodeClosedForm (afterRequest c payload s) n bytes rfl hpos
    rw [if_neg hn]
    exact ⟨t, ht, hst, recvScript_tx ht, fun h => by omega, fun _ => ⟨hblen, hvd, hbytes⟩⟩

end Sys2Proof.Machine
end

section
/-!
SUPPORT. What a decode leaves of its header position, by which a caller tells the two timeouts apart
(spec/60_exceptions.md R160).
-/

namespace Sys2Proof.Machine

/-- `RX.TMO` never moves the header position (spec/42_decoder.md R108 to R110). -/
theorem rxTmo_hpos {s t : State} (h : exec .rxTmo s = .next t) : t.hpos = s.hpos := by
  cases exec_completes rfl h with
  | timeout => exact raise_hpos _ _
  | finish => exact goto_hpos _ _
  | timeoutIdle => rfl

/-- After a decode the header position counts the bytes received, up to the position of the length byte. -/
theorem recvScript_hpos {s t : State} {n : Byte} {bytes : List Byte} (hs : s.st = .idle) (hn : 1 ≤ n.toNat)
    (ht : runScript (recvScript n bytes) s = .next t) : t.hpos.toNat = min bytes.length (s.cfg.hdrLen.toNat - 1) := by
  obtain ⟨u, hu, htmo⟩ := recvScript_next.mp ht
  obtain ⟨v, hv, -, hshort, hlong⟩ := decoderStateFollowsBytes s n bytes hs hn
  obtain rfl : v = u := by simpa [hv] using hu
  have hbounds := hdrLen_bounds s.cfg.hdrLen
  rw [rxTmo_hpos htmo]
  by_cases hlen : bytes.length < s.cfg.hdrLen.toNat
  · obtain ⟨-, hhpos, -⟩ := hshort hlen
    omega
  · obtain ⟨hhpos, -⟩ := hlong _ (List.getElem?_eq_getElem (l := bytes) (i := s.cfg.hdrLen.toNat - 1) (by omega))
    omega

/-- Settles O36: a header has at least two bytes, so the position is 0 only if no byte was counted. Other verdicts leave the same
position, so the proof does not use that the verdict is `TMO`. -/
theorem timeoutCasesToldApart : Obligations.TimeoutCasesToldApart := by
  intro s n bytes t hs hn ht _
  have hhpos := recvScript_hpos hs hn ht
  have hbounds := hdrLen_bounds s.cfg.hdrLen
  rw [← List.length_eq_zero_iff]
  bv_omega

end Sys2Proof.Machine
end

section
/-!
SUPPORT. The model's own fields at reset, and a block to which no event has been delivered (notes/assumptions/1.md to 4.md,
spec/70_reset_and_hazards.md R197).
-/

namespace Sys2Proof.Machine

/-- No event is taken exactly from an empty stream. -/
theorem takeEvent_none {s : State} : takeEvent s = none ↔ s.pending = [] := by
  unfold takeEvent
  split <;> simp_all

/-- A block without a delivered event waits as it is. -/
theorem step_waits {s : State} (h : s.pending = []) : step s = .next s := by
  rw [step, takeEvent_none.mpr h, waitForEvent]

/-- Settles O2: the buffer of reset lists no offset, and an empty event stream has no event to perform. -/
theorem resetModelFields : Obligations.ResetModelFields :=
  ⟨rfl, rfl, rfl, Memory.read_nil, fun _ => step_waits⟩

end Sys2Proof.Machine
end
